-- ==== Sys2Proof/Word.lean ====
section
/-!
DEFINITION. The plain words of the block: bytes, 7-bit target addresses, the transfer direction.
Lengths, counts, offsets and byte addresses are naturals (00_scope R14, 41_i2c_operations R274).
-/

namespace Sys2Proof

/-- A byte, unsigned, bit 0 least significant (R14). -/
abbrev Byte := BitVec 8

/-- An I2C target address, `ADDR_BITS` = 7 bits (R10, R171). -/
abbrev Addr7 := BitVec 7

/-- The direction of a transfer: write to the target or read from it (R42, R174). -/
inductive Dir where
  | W
  | R
  deriving DecidableEq, Repr, Inhabited

end Sys2Proof
end

