-- ==== Sys2Proof/Config.lean ====
section
/-!
DEFINITION. The parameters of 00_scope R10, the named constants, the choices an interleaving is made of, and the free values
(constants without a body, of which nothing can be proved).
-/

namespace Sys2Proof

/-- `ADDR_BITS` (R10). -/
def Config.addrBits : Nat := 7

/-- `CHUNK_MAX`: the largest chunk, the largest value of the 8-bit byte count (R10, R11). -/
def Config.chunkMax : Nat := 255

/-- `CMD_LEN_MIN` (R10). -/
def Config.cmdLenMin : Nat := 1

/-- `CMD_LEN_MAX` (R10); also the size of each of the Shell's three buffers (R72). -/
def Config.cmdLenMax : Nat := 64

/-- `T_TIMEOUT` in milliseconds (R10, R531): open ("on the order of one second", 93 I1), and no rule reads it (log 21). -/
opaque Config.tTimeoutMs : Nat

/-- `F_SCL`, the I2C bus clock (R10, R532): open, and no rule reads it. -/
opaque Config.fScl : Nat

/-- `TOKENIZE` (R10, R162). -/
inductive Tokenize where
  | collapse
  | single
  deriving DecidableEq, Repr, Inhabited

/-- `EXTRA_TOKENS` (R10, R169). -/
inductive ExtraTokens where
  | ignore
  | reject
  deriving DecidableEq, Repr, Inhabited

/-- `LEN_TOKEN` (R10, R165). -/
inductive LenToken where
  | digitsAny
  | digits2
  deriving DecidableEq, Repr, Inhabited

/-- `ADDR_HIGH` (R10, R164). -/
inductive AddrHigh where
  | reject
  | mask7
  deriving DecidableEq, Repr, Inhabited

/-- `TIMEOUT_MODEL` (R10, R456). -/
inductive TimeoutModel where
  | stallOnly
  | anyTime
  deriving DecidableEq, Repr, Inhabited

/-- The open parameters of R10 that a rule reads, as plain data: a state carries them, no step writes them, and a statement over all states
holds for every choice of them. The last three fields are the addresses of the Shell's buffers in data memory, which no
source gives (R120, log 5). -/
structure Params where
  mps          : Nat
  capIn        : Nat
  capOut       : Nat
  lineCap      : Nat
  ptrBits      : Nat
  tokenize     : Tokenize
  extraTokens  : ExtraTokens
  lenToken     : LenToken
  addrHigh     : AddrHigh
  timeoutModel : TimeoutModel
  wbuf1        : Nat
  wbuf2        : Nat
  rbuf         : Nat
  deriving DecidableEq, Repr, Inhabited

/-- The shared premises of 95_test_vectors section 0, with the Shell's buffers one after another from address 0.
DESIGN CHOICE (logs 4 and 5): the parameters are open; `State.reset` must name some. -/
def Config.params : Params where
  mps          := 64
  capIn        := 128
  capOut       := 128
  lineCap      := 300
  ptrBits      := 32
  tokenize     := .collapse
  extraTokens  := .reject
  lenToken     := .digitsAny
  addrHigh     := .reject
  timeoutModel := .stallOnly
  wbuf1        := 0
  wbuf2        := 64
  rbuf         := 128

/-- Who takes the next atomic step, and which of its steps where an agent may have several enabled (R13, R470). -/
inductive Move where
  /-- The Shell task: its own loop, or the engine sequencer inside a call. -/
  | shell
  /-- The timeout branch of the WAIT step (R206, R456). -/
  | timer
  /-- The USB servicing task. -/
  | usbSvc
  | isrI2cEv
  | isrI2cEr
  | isrDmaTx
  | isrDmaRx
  | isrUsb
  | pStart
  | pAddr
  | pWbyte
  | pRbyte
  | pStop
  | pDisable
  | pNoise
  | pStall
  | dmaTx
  | dmaRx
  | hostOut
  | hostIn
  /-- The host makes a control request (R541). -/
  | hostCtrl
  /-- An engine client's placed request is taken up (R175, log 12). -/
  | client
  deriving DecidableEq, Repr, Inhabited

/-- One choice of the interleaving: who moves, and the byte its oracle draw gives if its step draws (R17, log 2). -/
structure Choice where
  move : Move
  draw : Byte
  deriving DecidableEq, Repr, Inhabited

/-- The choice of the next step where the state lists none: free, so any agent with any draw (R18, R451, log 1). -/
opaque Config.freeChoice : Nat → Choice

/-- The bytes a read buffer holds after a failed chunk or operation: any value (R131, I8, log 17). -/
opaque Config.freeByte : Nat → Byte

end Sys2Proof
end

