-- ==== Sys2Proof/Syntax.lean ====
section
/-!
DEFINITION. The instructions: one constructor for each row of spec/opcode_table.json, in its three encodings (30_encoding R160):
command lines, engine requests, and I2C address bytes.
-/

namespace Sys2Proof

/-- The instructions of the block.

In a command line an operand is `none` where its token is missing or malformed (R375), and `extra` says that tokens stand
after the last argument the format takes (R169). A line decodes to the command its token 0 names whatever its arguments
are; the command's meaning makes the checks of R384-R387. -/
inductive Instr where
  /-- `PING` (R383). -/
  | ping (extra : Bool)
  /-- `READ aa nn` (R384). -/
  | read (aa : Option Addr7) (nn : Option Nat) (extra : Bool)
  /-- `WRITE aa nn <data>` (R385). -/
  | write (aa : Option Addr7) (nn : Option Nat) (data : Option (List Byte)) (extra : Bool)
  /-- `WRITE_READ aa n1 <data1> n2` (R386). -/
  | writeRead (aa : Option Addr7) (n1 : Option Nat) (data1 : Option (List Byte)) (n2 : Option Nat) (extra : Bool)
  /-- `WRITE_WRITE aa n1 <data1> n2 <data2>` (R387). -/
  | writeWrite (aa : Option Addr7) (n1 : Option Nat) (data1 : Option (List Byte)) (n2 : Option Nat)
      (data2 : Option (List Byte)) (extra : Bool)
  /-- A line whose token 0 is none of the five keywords, with that token (R169, R388). -/
  | unrecognized (keyword : List Byte)
  /-- `TRANSFER`, op 0 (R260). -/
  | transfer (addr : Addr7) (dir : Dir) (buf len : Nat) (cont : Bool)
  /-- `I2C_READ`, op 1 (R265). -/
  | i2cRead (addr : Addr7) (buf len : Nat)
  /-- `I2C_WRITE`, op 2 (R266). -/
  | i2cWrite (addr : Addr7) (buf len : Nat)
  /-- `I2C_WRITE_READ`, op 3 (R267). -/
  | i2cWriteRead (addr : Addr7) (buf len buf2 len2 : Nat)
  /-- `I2C_WRITE_WRITE`, op 4 (R268). -/
  | i2cWriteWrite (addr : Addr7) (buf len buf2 len2 : Nat)
  /-- `CHUNK`, op 5, internal to the engine (R200). -/
  | chunk (addr : Addr7) (dir : Dir) (buf n : Nat) (cont : Bool)
  /-- `SOFT_RESET`, op 6, internal to the engine (R221). -/
  | softReset
  /-- Op 7, reserved (R175). -/
  | reserved
  /-- The address byte of a write on the wire (R171). -/
  | addrW (a : Addr7)
  /-- The address byte of a read on the wire (R171). -/
  | addrR (a : Addr7)
  deriving DecidableEq, Repr

/-- The engine's request record, with the fields of R174. -/
structure Request where
  op   : BitVec 3
  addr : Addr7
  dir  : Dir
  cont : Bool
  buf  : Nat
  len  : Nat
  buf2 : Nat
  len2 : Nat
  deriving DecidableEq, Repr

/-- The three encodings of R160. -/
inductive Form where
  | line
  | request
  | wire
  deriving DecidableEq, Repr

/-- Which encoding an instruction is written in. -/
def Instr.form : Instr → Form
  | .ping _ => .line
  | .read _ _ _ => .line
  | .write _ _ _ _ => .line
  | .writeRead _ _ _ _ _ => .line
  | .writeWrite _ _ _ _ _ _ => .line
  | .unrecognized _ => .line
  | .transfer _ _ _ _ _ => .request
  | .i2cRead _ _ _ => .request
  | .i2cWrite _ _ _ => .request
  | .i2cWriteRead _ _ _ _ _ => .request
  | .i2cWriteWrite _ _ _ _ _ => .request
  | .chunk _ _ _ _ _ => .request
  | .softReset => .request
  | .reserved => .request
  | .addrW _ => .wire
  | .addrR _ => .wire

end Sys2Proof
end

