-- ==== Sys2Proof/WellFormed.lean ====
section
/-!
DEFINITION. Well-formed instructions: those whose encoding the spec admits as a valid one (30_encoding R163-R166, R169, R174, R175).
-/

namespace Sys2Proof

/-- A command address: present and not 0 (R164). -/
def wfAddr : Option Addr7 → Bool
  | some a => a != 0
  | none => false

/-- A command length: present and in 1..64 (R165). -/
def wfLen : Option Nat → Bool
  | some n => Config.cmdLenMin ≤ n && n ≤ Config.cmdLenMax
  | none => false

/-- A data field of its length: present and as many bytes as the length says (R166). -/
def wfData : Option Nat → Option (List Byte) → Bool
  | some n, some d => d.length == n
  | _, _ => false

/-- The five keywords, in ASCII (R163). -/
def Keyword.ping : List Byte := [0x50, 0x49, 0x4E, 0x47]
def Keyword.read : List Byte := [0x52, 0x45, 0x41, 0x44]
def Keyword.write : List Byte := [0x57, 0x52, 0x49, 0x54, 0x45]
def Keyword.writeRead : List Byte := Keyword.write ++ [0x5F] ++ Keyword.read
def Keyword.writeWrite : List Byte := Keyword.write ++ [0x5F] ++ Keyword.write

/-- All five. -/
def Keyword.all : List (List Byte) :=
  [Keyword.ping, Keyword.read, Keyword.write, Keyword.writeRead, Keyword.writeWrite]

/-- Printable ASCII, 0x20-0x7E (R372). -/
def isPrintable (c : Byte) : Bool := 0x20 ≤ c.toNat && c.toNat ≤ 0x7E

/-- A token a line can spell under either tokenizer: not empty, printable, without spaces (R162). -/
def wfToken (t : List Byte) : Bool := t != [] && t.all (fun c => isPrintable c && c != 0x20)

/-- A buffer that is not empty and stays within the data memory of 2^PTR_BITS bytes (R120, R125, R264). -/
def wfBuf (p : Params) (buf len : Nat) : Bool := 1 ≤ len && buf + len ≤ 2 ^ p.ptrBits

/-- The check of one instruction. Only the buffers of an engine request depend on the parameters. -/
def Instr.wf (p : Params) : Instr → Bool
  | .ping extra => !extra
  | .read aa nn extra => wfAddr aa && wfLen nn && !extra
  | .write aa nn data extra => wfAddr aa && wfLen nn && wfData nn data && !extra
  | .writeRead aa n1 data1 n2 extra => wfAddr aa && wfLen n1 && wfData n1 data1 && wfLen n2 && !extra
  | .writeWrite aa n1 data1 n2 data2 extra =>
      wfAddr aa && wfLen n1 && wfData n1 data1 && wfLen n2 && wfData n2 data2 && !extra
  | .unrecognized kw => wfToken kw && !Keyword.all.contains kw
  | .transfer _ _ buf len _ => wfBuf p buf len
  | .i2cRead _ buf len => wfBuf p buf len
  | .i2cWrite _ buf len => wfBuf p buf len
  | .i2cWriteRead _ buf len buf2 len2 => wfBuf p buf len && wfBuf p buf2 len2
  | .i2cWriteWrite _ buf len buf2 len2 => wfBuf p buf len && wfBuf p buf2 len2
  | .chunk _ _ buf n _ => wfBuf p buf n && n ≤ Config.chunkMax
  | .softReset => true
  | .reserved => true
  | .addrW _ => true
  | .addrR _ => true

/-- The instruction is well-formed. -/
abbrev Instr.WellFormed (p : Params) (i : Instr) : Prop := i.wf p = true

end Sys2Proof
end

