-- ==== Sys2Proof/Decode.lean ====
section
/-!
DEFINITION. The codecs, the decoders of the three encodings (30_encoding R160-R176), and after them the encoder.
-/

namespace Sys2Proof

/-! ## Hex, decimal and address tokens (43_command_shell R376-R380) -/

/-- The hex digit value `h` (R376); `none` on every byte that is not a lowercase hex digit (R167). -/
def hexDigit (c : Byte) : Option Nat :=
  if 0x30 ≤ c.toNat ∧ c.toNat ≤ 0x39 then some (c.toNat - 0x30)
  else if 0x61 ≤ c.toNat ∧ c.toNat ≤ 0x66 then some (c.toNat - 0x61 + 10)
  else none

/-- The digit `d` of a nibble (R378). -/
def hexChar (v : Nat) : Byte :=
  if v ≤ 9 then BitVec.ofNat 8 (0x30 + v) else BitVec.ofNat 8 (0x61 + (v - 10))

/-- The bytes that a text of digit pairs spells, high nibble first (R377). -/
def hexPairs : List Byte → Option (List Byte)
  | [] => some []
  | [_] => none
  | hi :: lo :: rest =>
    match hexDigit hi, hexDigit lo, hexPairs rest with
    | some h, some l, some bs => some (BitVec.ofNat 8 (16 * h + l) :: bs)
    | _, _, _ => none

/-- `hexdecode(t, n)` (R377). -/
def hexDecode (t : List Byte) (n : Nat) : Option (List Byte) :=
  if t.length = 2 * n then hexPairs t else none

/-- `hexencode(p)` (R378). -/
def hexEncode (p : List Byte) : List Byte :=
  p.flatMap (fun b => [hexChar (b.toNat / 16), hexChar (b.toNat % 16)])

/-- A decimal digit, 0x30-0x39 (R165). -/
def isDecDigit (c : Byte) : Bool := 0x30 ≤ c.toNat && c.toNat ≤ 0x39

/-- The number the digits spell, most significant first, unbounded (R379). -/
def decValue (t : List Byte) : Nat := t.foldl (fun v c => 10 * v + (c.toNat - 0x30)) 0

/-- `decdecode(t)` (R379). -/
def decDecode (m : LenToken) (t : List Byte) : Option Nat :=
  if t = [] ∨ t.all isDecDigit = false then none
  else if m = .digits2 ∧ t.length ≠ 2 then none
  else some (decValue t)

/-- A length of at most two digits, written with two (R163's line lengths). -/
def decEncode (n : Nat) : List Byte := [BitVec.ofNat 8 (0x30 + n / 10), BitVec.ofNat 8 (0x30 + n % 10)]

/-- `addrdecode(t)` (R380). -/
def addrDecode (m : AddrHigh) (t : List Byte) : Option Addr7 :=
  match hexDecode t 1 with
  | some [v] =>
    if 0x80 ≤ v.toNat ∧ m = .reject then none
    else if v.setWidth 7 = 0 then none
    else some (v.setWidth 7)
  | _ => none

/-! ## Tokens (30_encoding R162) -/

/-- The text between separators, empty text included: the tokens under `single`. -/
def splitSpaces : List Byte → List (List Byte)
  | [] => [[]]
  | c :: rest =>
    if c = 0x20 then [] :: splitSpaces rest
    else match splitSpaces rest with
      | t :: ts => (c :: t) :: ts
      | [] => [[c]]

/-- The tokens of a line; under `collapse` the empty ones are dropped. -/
def tokens (m : Tokenize) (line : List Byte) : List (List Byte) :=
  match m with
  | .single => splitSpaces line
  | .collapse => (splitSpaces line).filter (fun t => t != [])

/-! ## Command lines (R163, R169, R176, R375) -/

/-- The address at a token index, `none` where it is missing or malformed (R375, R380). -/
def addrArg (p : Params) (args : List (List Byte)) (k : Nat) : Option Addr7 :=
  args[k]?.bind (addrDecode p.addrHigh)

/-- The length at a token index (R375, R379). -/
def lenArg (p : Params) (args : List (List Byte)) (k : Nat) : Option Nat :=
  args[k]?.bind (decDecode p.lenToken)

/-- The data at a token index, for the length `n` (R375, R377). -/
def dataArg (args : List (List Byte)) (k : Nat) (n : Option Nat) : Option (List Byte) :=
  match args[k]?, n with
  | some t, some n => hexDecode t n
  | _, _ => none

/-- Tokens stand after the last argument of a format that takes `k` of them (R375). -/
def extraArgs (args : List (List Byte)) (k : Nat) : Bool := k < args.length

/-- The command that token 0 selects, with its arguments (R163, R374). `args` are the tokens from 1 on. -/
def decodeCommand (p : Params) (kw : List Byte) (args : List (List Byte)) : Instr :=
  if kw = Keyword.ping then .ping (extraArgs args 0)
  else if kw = Keyword.read then .read (addrArg p args 0) (lenArg p args 1) (extraArgs args 2)
  else if kw = Keyword.write then
    .write (addrArg p args 0) (lenArg p args 1) (dataArg args 2 (lenArg p args 1)) (extraArgs args 3)
  else if kw = Keyword.writeRead then
    .writeRead (addrArg p args 0) (lenArg p args 1) (dataArg args 2 (lenArg p args 1)) (lenArg p args 3)
      (extraArgs args 4)
  else if kw = Keyword.writeWrite then
    .writeWrite (addrArg p args 0) (lenArg p args 1) (dataArg args 2 (lenArg p args 1)) (lenArg p args 3)
      (dataArg args 4 (lenArg p args 3)) (extraArgs args 5)
  else .unrecognized kw

/-- A command line decodes to one of the five commands or to the illegal line (R176): total. -/
def decodeLine (p : Params) (line : List Byte) : Instr :=
  match tokens p.tokenize line with
  | [] => .unrecognized []
  | kw :: args => decodeCommand p kw args

/-! ## Engine requests (R174, R175) -/

/-- A request decodes by its op field (R175); fields its op does not use are not read. -/
def decodeRequest (r : Request) : Instr :=
  match r.op.toNat with
  | 0 => .transfer r.addr r.dir r.buf r.len r.cont
  | 1 => .i2cRead r.addr r.buf r.len
  | 2 => .i2cWrite r.addr r.buf r.len
  | 3 => .i2cWriteRead r.addr r.buf r.len r.buf2 r.len2
  | 4 => .i2cWriteWrite r.addr r.buf r.len r.buf2 r.len2
  | 5 => .chunk r.addr r.dir r.buf r.len r.cont
  | 6 => .softReset
  | _ => .reserved

/-- A natural in `k` bytes, least significant first. -/
def natToBytes : Nat → Nat → List Byte
  | 0, _ => []
  | k + 1, v => BitVec.ofNat 8 v :: natToBytes k (v / 256)

/-- The natural that bytes spell, least significant first. -/
def bytesToNat : List Byte → Nat
  | [] => 0
  | b :: bs => b.toNat + 256 * bytesToNat bs

/-- `k` bytes of a record from offset `at_`, absent bytes read as 0. -/
def field (bs : List Byte) (at_ k : Nat) : Nat := bytesToNat ((bs.drop at_).take k)

/-- The bytes that hold a pointer of PTR_BITS bits in a request record (log 9). -/
def ptrBytes (p : Params) : Nat := (p.ptrBits + 7) / 8

/-- The bytes of a request record at its full length (log 9): 19 where PTR_BITS is 32. -/
def Request.byteLength (p : Params) : Nat := 3 + 4 * ptrBytes p

/-- The bytes of a request record. DESIGN CHOICE (log 9): no source gives a binary form (R174), so this layout is the
model's: op; addr with dir in bit 7; cont; then buf, len - 1, buf2 and len2 - 1 in the bytes of a pointer each, least
significant first. A length is 1 or more (opcode_table.json), and PTR_BITS bits of len - 1 hold exactly 1..2^PTR_BITS. -/
def requestToBytes (p : Params) (r : Request) : List Byte :=
  BitVec.ofNat 8 r.op.toNat
    :: BitVec.ofNat 8 (r.addr.toNat + (if r.dir = .R then 128 else 0))
    :: (if r.cont then 1 else 0)
    :: (natToBytes (ptrBytes p) r.buf ++ natToBytes (ptrBytes p) (r.len - 1)
        ++ natToBytes (ptrBytes p) r.buf2 ++ natToBytes (ptrBytes p) (r.len2 - 1))

/-- The record that bytes spell, absent trailing bytes read as 0. DESIGN CHOICE (log 9) for the bits the layout leaves spare:
bits 7:1 of the cont byte are ignored, and bits above PTR_BITS in a pointer's top byte stay in the field, whose buffer is then
past the top of memory; `decode` rejects spare bits of the op byte. -/
def bytesToRequest (p : Params) (bs : List Byte) : Request where
  op   := BitVec.ofNat 3 (field bs 0 1)
  addr := BitVec.ofNat 7 (field bs 1 1)
  dir  := if 128 ≤ field bs 1 1 then .R else .W
  cont := (field bs 2 1) % 2 == 1
  buf  := field bs 3 (ptrBytes p)
  len  := field bs (3 + ptrBytes p) (ptrBytes p) + 1
  buf2 := field bs (3 + 2 * ptrBytes p) (ptrBytes p)
  len2 := field bs (3 + 3 * ptrBytes p) (ptrBytes p) + 1

/-! ## Address bytes (R171) -/

/-- The address byte on the wire: the address in bits 7:1, and bit 0 says read (R171). PRESUMED by the spec itself
(93 I2, log 23). -/
def wireByte (a : Addr7) (d : Dir) : Byte := BitVec.ofNat 8 (2 * a.toNat + (match d with | .W => 0 | .R => 1))

/-- The address and direction of an address byte (R171). -/
def decodeWire (b : Byte) : Instr :=
  if b.toNat % 2 = 1 then .addrR (BitVec.ofNat 7 (b.toNat / 2)) else .addrW (BitVec.ofNat 7 (b.toNat / 2))

/-! ## The decoder on any bytes -/

/-- Why bytes are no instruction of their encoding. -/
inductive DecodeError where
  /-- An empty line is no command (R161). -/
  | emptyLine
  /-- A line holds printable bytes only (R161, R372). -/
  | unprintable
  /-- A request record with no op byte. -/
  | emptyRecord
  /-- The op field is 3 bits (R174); the other bits of its byte are 0 (log 9). -/
  | opTooWide
  /-- More bytes than a record has (log 9). -/
  | recordTooLong
  /-- An address byte is one byte (R171). -/
  | notOneByte
  deriving DecidableEq, Repr

/-- Decode bytes of one encoding: total, rejecting by name. A line is given without its terminator (R161). -/
def decode (p : Params) (f : Form) (bs : List Byte) : Except DecodeError Instr :=
  match f with
  | .line =>
    if bs = [] then .error .emptyLine
    else if bs.all isPrintable = false then .error .unprintable
    else .ok (decodeLine p bs)
  | .request =>
    if bs = [] then .error .emptyRecord
    else if 8 ≤ field bs 0 1 then .error .opTooWide
    else if Request.byteLength p < bs.length then .error .recordTooLong
    else .ok (decodeRequest (bytesToRequest p bs))
  | .wire =>
    match bs with
    | [b] => .ok (decodeWire b)
    | _ => .error .notOneByte

/-! ## The encoder -/

/-- The request record of an engine request; unused fields 0, unused lengths 1 (log 9). -/
def Instr.toRequest : Instr → Request
  | .transfer addr dir buf len cont => ⟨0, addr, dir, cont, buf, len, 0, 1⟩
  | .i2cRead addr buf len => ⟨1, addr, .W, false, buf, len, 0, 1⟩
  | .i2cWrite addr buf len => ⟨2, addr, .W, false, buf, len, 0, 1⟩
  | .i2cWriteRead addr buf len buf2 len2 => ⟨3, addr, .W, false, buf, len, buf2, len2⟩
  | .i2cWriteWrite addr buf len buf2 len2 => ⟨4, addr, .W, false, buf, len, buf2, len2⟩
  | .chunk addr dir buf n cont => ⟨5, addr, dir, cont, buf, n, 0, 1⟩
  | .softReset => ⟨6, 0, .W, false, 0, 1, 0, 1⟩
  | _ => ⟨7, 0, .W, false, 0, 1, 0, 1⟩

/-- A command address as two hex digits (R164). -/
def addrText (aa : Option Addr7) : List Byte :=
  match aa with
  | some a => hexEncode [a.setWidth 8]
  | none => []

/-- A command length as two decimal digits (R165). -/
def lenText (n : Option Nat) : List Byte :=
  match n with
  | some n => decEncode n
  | none => []

/-- A data field as its hex digits (R166). -/
def dataText (d : Option (List Byte)) : List Byte :=
  match d with
  | some d => hexEncode d
  | none => []

/-- A line of tokens, one space between (R162). -/
def lineText (ts : List (List Byte)) : List Byte := [0x20].intercalate ts

/-- The bytes of a well-formed instruction in its encoding (R163, R171, R174). -/
def encode (p : Params) : Instr → List Byte
  | .ping _ => lineText [Keyword.ping]
  | .read aa nn _ => lineText [Keyword.read, addrText aa, lenText nn]
  | .write aa nn data _ => lineText [Keyword.write, addrText aa, lenText nn, dataText data]
  | .writeRead aa n1 data1 n2 _ =>
      lineText [Keyword.writeRead, addrText aa, lenText n1, dataText data1, lenText n2]
  | .writeWrite aa n1 data1 n2 data2 _ =>
      lineText [Keyword.writeWrite, addrText aa, lenText n1, dataText data1, lenText n2, dataText data2]
  | .unrecognized kw => lineText [kw]
  | .transfer addr dir buf len cont => requestToBytes p (Instr.transfer addr dir buf len cont).toRequest
  | .i2cRead addr buf len => requestToBytes p (Instr.i2cRead addr buf len).toRequest
  | .i2cWrite addr buf len => requestToBytes p (Instr.i2cWrite addr buf len).toRequest
  | .i2cWriteRead addr buf len buf2 len2 => requestToBytes p (Instr.i2cWriteRead addr buf len buf2 len2).toRequest
  | .i2cWriteWrite addr buf len buf2 len2 => requestToBytes p (Instr.i2cWriteWrite addr buf len buf2 len2).toRequest
  | .chunk addr dir buf n cont => requestToBytes p (Instr.chunk addr dir buf n cont).toRequest
  | .softReset => requestToBytes p Instr.softReset.toRequest
  | .reserved => requestToBytes p Instr.reserved.toRequest
  | .addrW a => [wireByte a .W]
  | .addrR a => [wireByte a .R]

/-! ## The table's bit numbering -/

/-- Which encoding a word of the opcode table is in (log 10). The table numbers the 3-bit op of a request and the 8-bit
address byte from bit 0 alike; a word of one byte whose bits above the op are 0 is read as a request, any other byte as an
address byte, and a longer word as the text of a line. -/
def tableForm (nbits w : Nat) : Form :=
  if 8 < nbits then .line else if w < 8 then .request else .wire

/-- The bytes of a table word, the first byte in the low bits. -/
def tableBytes (nbits w : Nat) : List Byte := natToBytes ((nbits + 7) / 8) w

/-- The instruction the decoder reads from a word numbered as spec/opcode_table.json numbers it (log 10). -/
def decodeTableWord (nbits w : Nat) : Option Instr :=
  match decode Config.params (tableForm nbits w) (tableBytes nbits w) with
  | .ok i => some i
  | .error _ => none

end Sys2Proof
end

