-- ==== Sys2Proof/Machine/State.lean ====
section
/-!
DEFINITION. The state: every field that 10_state and 70_reset_and_hazards R501 list, by agent, with the task locals the
rules name, and the model's own fields (INVENTORY.md, State). Plain data throughout.
-/

namespace Sys2Proof.Machine

/-! ## The engine (10_state section 2) -/

/-- The sequencer position `SHELL.phase` (R41). -/
inductive Phase where
  | IDLE
  | CONFIG
  | ARM
  | DRAIN
  | ENDMA
  | START
  | WAIT
  | EVAL
  | STOPREQ
  | DMAOFF
  | RST_DIS
  | RST_WAIT
  | RST_EN
  | REARM
  deriving DecidableEq, Repr

/-- The transaction record `TXN` (R42). -/
structure Txn where
  addr : Addr7
  dir  : Dir
  /-- The address of the chunk's first byte. -/
  buf  : Nat
  /-- The length the caller asked of the transfer. -/
  len  : Nat
  /-- The chunk length, 1..255. -/
  n    : Byte
  /-- Continue without stop. -/
  cont : Bool
  deriving DecidableEq, Repr

/-- The ghost cause of R442: its codes 0, 1, 2, 3, 4 in this order. -/
inductive Cause where
  | NONE
  | NACK
  | DMA
  | TIMEOUT
  | MALFORMED
  deriving DecidableEq, Repr

/-- The result registers `ENG.*` (R43), the ghost cause (R442), and the `ok` a composed call returns (R265-R268, log 30). -/
structure Eng where
  res      : Byte
  timedOut : Bool
  total    : Nat
  cause    : Cause
  ok       : Bool
  deriving DecidableEq, Repr

/-- One `TRANSFER` of an engine call (R260), without the address. -/
structure Xfer where
  dir  : Dir
  buf  : Nat
  len  : Nat
  cont : Bool
  deriving DecidableEq, Repr

/-- What the Shell replies when its engine call returns (R384-R387). -/
inductive Reply where
  /-- The call was made by an engine client: no reply. -/
  | silent
  /-- `OK` or `ERROR` (R385, R387). -/
  | ok
  /-- `DATA` with the first `n` bytes of the Shell's read buffer, or `ERROR` (R384, R386). -/
  | data (n : Nat)
  deriving DecidableEq, Repr

/-- The locals of the engine call in flight (41_i2c_operations header): the transfer being run and the offset reached in it,
the phase still to come, the caller's read buffer, and the reply owed. -/
structure Call where
  addr    : Addr7
  cur     : Xfer
  off     : Nat
  next    : Option Xfer
  /-- The buffer the call fills by reading: its address and length (R260, R265, R267). -/
  readBuf : Option (Nat × Nat)
  reply   : Reply
  deriving DecidableEq, Repr

/-- The interrupt sources (R444). -/
inductive Source where
  | EV
  | ER
  | DTX
  | DRX
  | USB
  deriving DecidableEq, Repr

/-- The interrupt enables `IRQEN[s]` (R45). -/
structure Irqen where
  ev  : Bool
  er  : Bool
  dtx : Bool
  drx : Bool
  usb : Bool
  deriving DecidableEq, Repr

/-! ## The I2C peripheral and the bus (10_state sections 3 and 4) -/

/-- The peripheral's bus state machine (R56). -/
inductive Bus where
  | Idle
  | Addr (a : Addr7) (d : Dir) (n : Nat)
  | Data (a : Addr7) (d : Dir) (i n : Nat)
  | Held
  deriving DecidableEq, Repr

/-- The acknowledge after a byte (R170). -/
inductive Ack where
  | ACK
  | NACK
  deriving DecidableEq, Repr

/-- The bus events (R170). -/
inductive BusEvent where
  | START
  | RSTART
  | ADDR (a : Addr7) (d : Dir) (k : Ack)
  | WR (b : Byte) (k : Ack)
  | RD (b : Byte) (k : Ack)
  | STOP
  | RELEASE
  deriving DecidableEq, Repr

/-- The I2C peripheral `I2CP` (R46-R57). -/
structure I2cp where
  pe       : Bool
  peActive : Bool
  sadd     : Addr7
  /-- 1 is read (R48). -/
  rdWrn    : Bool
  nbytes   : Byte
  start    : Bool
  stop     : Bool
  nackf    : Bool
  stopf    : Bool
  berr     : Bool
  txdr     : Byte
  /-- 1 is empty. -/
  txe      : Bool
  rxdr     : Byte
  /-- 1 is an unread byte. -/
  rxne     : Bool
  bus      : Bus
  stalled  : Bool
  deriving DecidableEq, Repr

/-- A DMA channel (R62, R63). -/
structure Dma where
  cmar  : Nat
  cndtr : Byte
  en    : Bool
  tcif  : Bool
  teif  : Bool
  deriving DecidableEq, Repr

/-! ## The USB transport (10_state section 6) -/

/-- A byte stream: circular buffer, write and read cursors, byte count (R64). -/
structure ByteStream where
  buf   : List Byte
  wr    : Nat
  rd    : Nat
  count : Nat
  deriving DecidableEq, Repr

/-- A subset of the servicing task's flags (R67). -/
structure Pending where
  poll       : Bool
  recvResume : Bool
  sendResume : Bool
  deriving DecidableEq, Repr

/-- The bulk OUT endpoint (R68). -/
inductive EpOut where
  | Valid
  | Full (p : List Byte)
  | Nak
  deriving DecidableEq, Repr

/-- The bulk IN endpoint (R69). -/
inductive EpIn where
  | Free
  | Busy (p : List Byte)
  deriving DecidableEq, Repr

/-- A subset of the USB hardware events (R70). -/
structure Events where
  outRx  : Bool
  inDone : Bool
  ctrl   : Bool
  deriving DecidableEq, Repr

/-- One USB hardware event (R70). -/
inductive UsbEvent where
  | outRx
  | inDone
  | ctrl
  deriving DecidableEq, Repr

/-- The transport's flags and endpoints (R65-R70), and the flags the servicing task has taken and not yet handled: the
`F` of R305, whose members also say how far the round has come. -/
structure Usb where
  receiving : Bool
  sending   : Bool
  pending   : Pending
  epOut     : EpOut
  epIn      : EpIn
  events    : Events
  taken     : Pending
  deriving DecidableEq, Repr

/-! ## The Shell and the host (10_state sections 7 and 8) -/

/-- The command line buffer (R71). -/
structure Line where
  bytes : List Byte
  len   : Nat
  deriving DecidableEq, Repr

/-- The Shell's position in its loop (R72). -/
inductive Pos where
  | READING
  | DISPATCH
  | REPLYING
  deriving DecidableEq, Repr

/-- The Shell task: its line, its position, the byte `recv` has taken and the Shell not yet handled (R303), and `send`'s
locals: the bytes not yet put, and whether step B is next (R304). -/
structure Shell where
  line     : Line
  pos      : Pos
  recvd    : Option Byte
  sendRest : List Byte
  sendAtB  : Bool
  deriving DecidableEq, Repr

/-- The host (R73). -/
structure HostSide where
  tx : List (List Byte)
  rx : List (List Byte)
  deriving DecidableEq, Repr

/-- Data memory: its bytes that are not 0, by address, addresses rising (R120, log 8). -/
abbrev Memory := List Host.Cell

/-- The machine. -/
structure State where
  /-- The open parameters (R10), written by no step (log 4). -/
  cfg    : Params
  phase  : Phase
  /-- `none`: no record exists, before a chunk's CONFIG and after its REARM (R42). -/
  txn    : Option Txn
  eng    : Eng
  /-- The engine call in flight, if one is. -/
  call   : Option Call
  sem    : Bool
  irqen  : Irqen
  i2c    : I2cp
  trace  : List BusEvent
  tx     : Dma
  rx     : Dma
  ins    : ByteStream
  outs   : ByteStream
  usb    : Usb
  sh     : Shell
  host   : HostSide
  mem    : Memory
  /-- A request an engine client has placed and the engine not yet taken up (log 12). -/
  client : Option Request
  /-- The choices of the steps to come, first one next (log 1). -/
  sched  : List Choice
  /-- The choice of the step being taken: its draw is what the step's oracle draw gives (log 2). -/
  now    : Choice
  /-- How many free choices have been used (log 1). -/
  tick   : Nat
  /-- How many free bytes have been used (log 17). -/
  free   : Nat
  deriving DecidableEq, Repr

/-! ## Reset (70_reset_and_hazards R501) -/

/-- A byte stream at reset (R64, R501); the buffer's contents are unspecified, 0 here (log 7). -/
def ByteStream.reset (cap : Nat) : ByteStream := ⟨List.replicate cap 0, 0, 0, 0⟩

/-- No flag. -/
def Pending.empty : Pending := ⟨false, false, false⟩

/-- No event. -/
def Events.empty : Events := ⟨false, false, false⟩

/-- A DMA channel at reset: disabled, no flag; CMAR and CNDTR unspecified, 0 here (log 7). -/
def Dma.reset : Dma := ⟨0, 0, false, false, false⟩

/-- The peripheral at reset (R501); SADD, RD_WRN, NBYTES, TXDR and RXDR unspecified, 0 here (log 7). -/
def I2cp.reset : I2cp where
  pe       := true
  peActive := true
  sadd     := 0
  rdWrn    := false
  nbytes   := 0
  start    := false
  stop     := false
  nackf    := false
  stopf    := false
  berr     := false
  txdr     := 0
  txe      := true
  rxdr     := 0
  rxne     := false
  bus      := .Idle
  stalled  := false

/-- The machine after initialisation (R500-R503). DESIGN CHOICE where R501 says unspecified: 0 (log 7), the parameters of
95_test_vectors section 0 (log 4), no launch input (log 11), no ghost cause (log 19). -/
def State.reset : State where
  cfg    := Config.params
  phase  := .IDLE
  txn    := none
  eng    := ⟨0, false, 0, .NONE, false⟩
  call   := none
  sem    := false
  irqen  := ⟨true, true, true, true, true⟩
  i2c    := I2cp.reset
  trace  := []
  tx     := Dma.reset
  rx     := Dma.reset
  ins    := ByteStream.reset Config.params.capIn
  outs   := ByteStream.reset Config.params.capOut
  usb    := ⟨true, false, Pending.empty, .Valid, .Free, Events.empty, Pending.empty⟩
  sh     := ⟨⟨List.replicate Config.params.lineCap 0, 0⟩, .READING, none, [], false⟩
  host   := ⟨[], []⟩
  mem    := []
  client := none
  sched  := []
  now    := ⟨.shell, 0⟩
  tick   := 0
  free   := 0

/-! ## How a step stops -/

/-- No state of the block is a fault state (R440, R443): there is no fault, so no step can fault. Every access a step makes
is of an address that exists (log 6). -/
inductive Fault where
  deriving DecidableEq, Repr

/-- The refusals of R440 and 30_encoding R175: requests to which the spec gives no meaning. Each is safe: nothing can be
proved of what the hardware would do after one. -/
inductive Refusal where
  /-- An instruction without a meaning yet: raised by no arm of this model. Safe. -/
  | notModelled (mnemonic : String)
  /-- R264(a), D5, 93 I24: an engine request, or a chunk, of length 0. Raised by the engine calls, and by the CONFIG of a second
phase of length 0 (log 34). Safe. -/
  | zeroLength
  /-- R264(b), R125: a buffer that runs past the top of the data memory. Raised by the engine calls. Safe. -/
  | bufferWraps
  /-- R264(c): an engine request while another is in flight. Raised by the engine calls. Safe. -/
  | concurrentCall
  /-- R175: op 7. Safe. -/
  | reservedOp
  /-- R175: op 5 or 6 from outside the engine. Safe. -/
  | internalOp
  /-- R200: a chunk of more than 255 bytes, which no caller issues; raised by CHUNK (log 29). Safe. -/
  | chunkTooLong
  /-- R311: a configuration with CAP_IN below MPS. Raised by every step. Safe. -/
  | capInLtMps
  /-- R10, D27: a configuration with CAP_OUT = 0. Raised by every step (log 25). Safe. -/
  | capOutZero
  /-- R42, R440, 93 I10: a read of TXN while no chunk's record exists ("a read before a chunk writes it is refused"). Raised
  by ARM, ENDMA, EVAL, STOPREQ and DMAOFF, the steps that read it. Safe. -/
  | txnUnwritten
  deriving DecidableEq, Repr

/-- One step's outcome. -/
abbrev Result := Host.Outcome State Fault Refusal

end Sys2Proof.Machine
end

