-- ==== Sys2Proof/Machine/Ops.lean ====
section
/-!
DEFINITION. The named operations over memory, byte streams, the bus, the completion signal, the DMA channels and the
interrupts (00_scope R16, R17, 20_memory, 42_usb_transport section 1, 60_exceptions).
-/

namespace Sys2Proof.Machine

/-! ## Data memory (20_memory) -/

/-- What an unlisted byte of memory reads as. DESIGN CHOICE (log 8): R501 leaves it unspecified. -/
def Memory.unlisted : Byte := 0

/-- The byte at an address: the last one written (R126). -/
def Memory.read (m : Memory) (a : Nat) : Byte :=
  match m with
  | [] => Memory.unlisted
  | (k, b) :: rest => if k = a then b else Memory.read rest a

/-- Every entry but those of one address. -/
def Memory.erase (m : Memory) (a : Nat) : Memory := m.filter (fun c => c.1 != a)

/-- An entry put before the first one of a higher address. -/
def Memory.insert (m : Memory) (a : Nat) (b : Byte) : Memory :=
  match m with
  | [] => [(a, b)]
  | (k, v) :: rest => if a < k then (a, b) :: (k, v) :: rest else (k, v) :: Memory.insert rest a b

/-- Write one byte, keeping addresses rising and no entry at the unlisted value. -/
def Memory.write (m : Memory) (a : Nat) (b : Byte) : Memory :=
  if b = Memory.unlisted then m.erase a else (m.erase a).insert a b

/-- Every address of the list lies above `lo`, they rise, and no byte is the unlisted value. -/
def Memory.wfAbove (lo : Option Nat) (m : Memory) : Bool :=
  match m with
  | [] => true
  | (k, v) :: rest =>
    (match lo with
      | some l => decide (l < k)
      | none => true) && v != Memory.unlisted && Memory.wfAbove (some k) rest

/-- The canonical form. -/
def Memory.wf (m : Memory) : Bool := Memory.wfAbove none m

/-- `MemRead(a, n)` (R16, R122). -/
def Memory.readN (m : Memory) (a : Nat) (n : Nat) : List Byte := (List.range n).map (fun k => m.read (a + k))

/-- `MemWrite` of a byte list at increasing addresses (R16, R122). -/
def Memory.writeN (m : Memory) (a : Nat) (bs : List Byte) : Memory :=
  match bs with
  | [] => m
  | b :: rest => Memory.writeN (m.write a b) (a + 1) rest

/-- The number of bytes of the data memory, 2^PTR_BITS (R120). -/
def memTop (p : Params) : Nat := 2 ^ p.ptrBits

/-- A value in `PTR_BITS` bits: what a pointer register holds (R42, R62, R274, log 6). -/
def ptr (p : Params) (a : Nat) : Nat := a % memTop p

/-- Fill a buffer with free bytes (log 17): each a fresh use of the free constant. -/
def State.havoc (s : State) (buf n : Nat) : State :=
  { s with
    mem := s.mem.writeN buf ((List.range n).map (fun k => Config.freeByte (s.free + k)))
    free := s.free + n }

/-! ## Byte streams (42_usb_transport R300, R301) -/

/-- The bytes of a put, one after another from the write cursor, modulo the capacity. -/
def putBytes (cap : Nat) (buf : List Byte) (w : Nat) (p : List Byte) : List Byte :=
  match p with
  | [] => buf
  | b :: rest => putBytes cap (buf.set (w % cap) b) (w + 1) rest

/-- A put of `k` bytes has a step: it does not pass the capacity (R300). -/
def ByteStream.fits (cap : Nat) (q : ByteStream) (k : Nat) : Bool := q.count + k ≤ cap

/-- `StreamPut` (R300). Its callers hold where the bytes do not fit: `send` puts what fits only (R304), and a packet's event
is not ready before the packet fits (R309). -/
def ByteStream.put (cap : Nat) (q : ByteStream) (p : List Byte) : ByteStream where
  buf   := putBytes cap q.buf q.wr p
  wr    := (q.wr + p.length) % cap
  rd    := q.rd
  count := q.count + p.length

/-- The first `k` bytes of a stream, oldest first. -/
def ByteStream.peek (cap : Nat) (q : ByteStream) (k : Nat) : List Byte :=
  (List.range k).map (fun j => q.buf.getD ((q.rd + j) % cap) 0)

/-- The stream after `StreamGet` of `k` bytes (R301); the bytes are `peek cap k`. -/
def ByteStream.drop (cap : Nat) (q : ByteStream) (k : Nat) : ByteStream :=
  { q with rd := (q.rd + k) % cap, count := q.count - k }

/-! ## The bus trace, the phase, the pending set -/

/-- `emit e` (R17, R59). -/
def State.emit (s : State) (e : BusEvent) : State := { s with trace := s.trace ++ [e] }

/-- `phase <- P` (R15). -/
def State.setPhase (s : State) (p : Phase) : State := { s with phase := p }

/-- The union of two subsets of the servicing task's flags: additive (R67, R133). -/
def Pending.union (p q : Pending) : Pending :=
  ⟨p.poll || q.poll, p.recvResume || q.recvResume, p.sendResume || q.sendResume⟩

/-- `post(F)` (R17). -/
def State.post (s : State) (f : Pending) : State :=
  { s with usb := { s.usb with pending := s.usb.pending.union f } }

/-! ## The completion signal (60_exceptions R453-R455) -/

/-- `give`: saturating (R454). -/
def State.give (s : State) : State := { s with sem := true }

/-- The signal taken (R455) or drained (R203). -/
def State.clearSem (s : State) : State := { s with sem := false }

/-! ## The DMA channels (10_state R61) -/

/-- The channel that serves a direction: TX for writes, RX for reads. -/
def State.chan (s : State) (d : Dir) : Dma :=
  match d with
  | .W => s.tx
  | .R => s.rx

/-- Replace that channel. -/
def State.setChan (s : State) (d : Dir) (c : Dma) : State :=
  match d with
  | .W => { s with tx := c }
  | .R => { s with rx := c }

/-! ## Interrupts: what stands for taking an exception and returning from one (60_exceptions R444, R457, R458)

The block has no trap: no saved program counter, status, mode or vector (R440, R457). Control goes to the handler of the
pending source; the handler's body is one step, saves nothing and restores nothing. What every signalling handler does on
entry is disable its own source. -/

/-- Read `IRQEN[src]` (R45). -/
def Irqen.get (e : Irqen) (src : Source) : Bool :=
  match src with
  | .EV => e.ev
  | .ER => e.er
  | .DTX => e.dtx
  | .DRX => e.drx
  | .USB => e.usb

/-- Write `IRQEN[src]` (R45). -/
def Irqen.set (e : Irqen) (src : Source) (v : Bool) : Irqen :=
  match src with
  | .EV => { e with ev := v }
  | .ER => { e with er := v }
  | .DTX => { e with dtx := v }
  | .DRX => { e with drx := v }
  | .USB => { e with usb := v }

/-- Enable or disable one source. -/
def State.setIrqen (s : State) (src : Source) (v : Bool) : State := { s with irqen := s.irqen.set src v }

/-- Entry of a handler that disables its own source (R446, R448, R449, R457): nothing else changes. -/
def State.enterHandler (s : State) (src : Source) : State := s.setIrqen src false

/-- Return from a handler (R458): nothing is restored. -/
def State.leaveHandler (s : State) : State := s

/-- The engine's re-enable of its four sources (R220, R450). -/
def State.rearmSources (s : State) : State :=
  { s with irqen := { s.irqen with ev := true, er := true, dtx := true, drx := true } }

/-! ## The Shell's reply (43_command_shell R389) -/

/-- The reply texts of R168. -/
def Text.crlf : List Byte := [0x0D, 0x0A]
def Text.ok : List Byte := [0x4F, 0x4B] ++ Text.crlf
def Text.error : List Byte := [0x45, 0x52, 0x52, 0x4F, 0x52] ++ Text.crlf
def Text.data (p : List Byte) : List Byte := [0x44, 0x41, 0x54, 0x41, 0x20] ++ hexEncode p ++ Text.crlf

/-- The Shell begins to send a reply (R389). -/
def State.startReply (s : State) (text : List Byte) : State :=
  { s with sh := { s.sh with pos := .REPLYING, sendRest := text, sendAtB := false } }

/-- A rejected line: the reply `ERROR`, the ghost cause MALFORMED, no engine request (R382, R388, R442). -/
def State.rejectLine (s : State) : State :=
  { s with eng := { s.eng with cause := .MALFORMED } }.startReply Text.error

end Sys2Proof.Machine
end

