-- ==== Sys2Proof/Machine/Operands.lean ====
section
/-!
DEFINITION. The operand checks: of a command line (43_command_shell R375, R380, R382, R384-R387) and of an engine request
(41_i2c_operations R264).
-/

namespace Sys2Proof.Machine

/-- Extra tokens make the line malformed under `EXTRA_TOKENS = reject` (R375). -/
def extraBad (p : Params) (extra : Bool) : Bool := extra && p.extraTokens == .reject

/-- A checked address: present and not 0 (R380). -/
def checkAddr (aa : Option Addr7) : Option Addr7 := aa.filter (fun a => a != 0)

/-- A checked length: present and in 1..64 (R165, R384). -/
def checkLen (nn : Option Nat) : Option Nat :=
  nn.filter (fun n => Config.cmdLenMin ≤ n && n ≤ Config.cmdLenMax)

/-- Checked data: present, and as many bytes as the length says (R166, R377). -/
def checkData (n : Nat) (data : Option (List Byte)) : Option (List Byte) :=
  data.filter (fun d => d.length == n)

/-- A buffer runs past the top of the data memory (R125, R264(b)). -/
def bufferBad (p : Params) (buf len : Nat) : Bool := memTop p < buf + len

/-- An engine request is in flight (R264(c)). -/
def State.inFlight (s : State) : Bool := s.call.isSome || s.phase != .IDLE

/-- Why the request of one buffer is refused, if it is (R264; the order among the reasons is log 28). -/
def refuseOne (s : State) (buf len : Nat) : Option Refusal :=
  if len = 0 then some .zeroLength
  else if bufferBad s.cfg buf len then some .bufferWraps
  else if s.inFlight then some .concurrentCall
  else none

/-- Why the request of two buffers is refused, if it is (R264; the order among the reasons is log 28). R264(a) names `len`
only, R264(b) both buffers: a request whose second length is 0 begins, and its first phase runs (R267, R268; log 34). -/
def refuseTwo (s : State) (buf len buf2 len2 : Nat) : Option Refusal :=
  if len = 0 then some .zeroLength
  else if bufferBad s.cfg buf len || bufferBad s.cfg buf2 len2 then some .bufferWraps
  else if s.inFlight then some .concurrentCall
  else none

/-- The request comes from outside the engine: from an engine client (R175, log 12). -/
def State.fromOutside (s : State) : Bool := s.now.move == .client

/-- The draw of a step between an acknowledge and a not-acknowledge: bit 0 as on the wire, low is ACK (R172, log 2). -/
def State.drawAck (s : State) : Ack := if s.now.draw.getLsbD 0 then .NACK else .ACK

/-- A draw of one bit (log 2): the DMA's `error`, the reset's `s`. -/
def State.drawBit (s : State) : Bool := s.now.draw.getLsbD 0

end Sys2Proof.Machine
end

