-- ==== Sys2Proof/Machine/Flags.lean ====
section
/-!
DEFINITION. What is computed from flags: the interrupt conditions (60_exceptions R444, R445), the evaluation of a chunk
(40_i2c_chunk R215, R442), and the enabling condition of every step (the first line of each step rule; R456, R540).
-/

namespace Sys2Proof.Machine

/-! ## Interrupt conditions -/

/-- A channel's completion or error flag (R444). -/
def Dma.signals (c : Dma) : Bool := c.tcif || c.teif

/-- `USB.events != {}` (R444). -/
def Events.any (e : Events) : Bool := e.outRx || e.inDone || e.ctrl

/-- The condition of a source (R444). -/
def State.condition (s : State) (src : Source) : Bool :=
  match src with
  | .EV => s.i2c.nackf
  | .ER => s.i2c.berr
  | .DTX => s.tx.signals
  | .DRX => s.rx.signals
  | .USB => s.usb.events.any

/-- A source is pending: its condition holds and it is enabled; there is no latch (R445). -/
def State.pendingIrq (s : State) (src : Source) : Bool := s.condition src && s.irqen.get src

/-! ## The evaluation of a chunk -/

/-- The chunk's result (R215). -/
def evalRes (s : State) (t : Txn) : Byte :=
  if s.eng.timedOut then 0
  else if s.i2c.nackf then 0
  else if (s.chan t.dir).tcif = false ∨ (s.chan t.dir).teif = true then 0
  else t.n

/-- The chunk's ghost cause: the first match of R442's table. -/
def evalCause (s : State) (t : Txn) : Cause :=
  if s.eng.timedOut then .TIMEOUT
  else if s.i2c.nackf then .NACK
  else if (s.chan t.dir).tcif = false ∨ (s.chan t.dir).teif = true then .DMA
  else .NONE

/-! ## Where the bus stands -/

/-- The bus is in a data phase of direction `d`. -/
def Bus.inData (b : Bus) (d : Dir) : Bool :=
  match b with
  | .Data _ d' _ _ => d' == d
  | _ => false

/-- The bus is at an address byte. -/
def Bus.inAddr (b : Bus) : Bool :=
  match b with
  | .Addr _ _ _ => true
  | _ => false

/-- No transaction is between its START and its last byte: `Idle` or `Held` (R207). -/
def Bus.betweenChunks (b : Bus) : Bool :=
  match b with
  | .Idle => true
  | .Held => true
  | _ => false

/-- The peripheral can take a bus step: it runs and is not stalled (R57, R207-R210, R213). -/
def I2cp.ready (c : I2cp) : Bool := c.peActive && !c.stalled

/-- The bus is at a byte boundary for a STOP (R213). -/
def I2cp.atByteBoundary (c : I2cp) : Bool :=
  c.bus.betweenChunks || (c.bus.inData .W && c.txe) || (c.bus.inData .R && c.rxne)

/-! ## Enabling conditions -/

/-- The enabling condition of a step other than SHELL's, TIMER's and the servicing task's. -/
def State.hwEnabled (s : State) (m : Move) : Bool :=
  match m with
  | .isrI2cEv => s.pendingIrq .EV
  | .isrI2cEr => s.pendingIrq .ER
  | .isrDmaTx => s.pendingIrq .DTX
  | .isrDmaRx => s.pendingIrq .DRX
  | .isrUsb => s.pendingIrq .USB
  | .pStart => s.i2c.start && !s.i2c.stop && s.i2c.ready && s.i2c.bus.betweenChunks
  | .pAddr => s.i2c.bus.inAddr && s.i2c.ready
  | .pWbyte => s.i2c.bus.inData .W && !s.i2c.txe && s.i2c.ready
  | .pRbyte => s.i2c.bus.inData .R && !s.i2c.rxne && s.i2c.ready
  | .pStop => s.i2c.stop && s.i2c.ready && s.i2c.atByteBoundary
  | .pDisable => !s.i2c.pe && s.i2c.peActive
  | .pNoise => s.i2c.peActive
  | .pStall => s.i2c.peActive && !s.i2c.stalled
  | .dmaTx => s.tx.en && s.tx.cndtr != 0 && s.i2c.txe && s.i2c.bus.inData .W
  | .dmaRx => s.rx.en && s.rx.cndtr != 0 && s.i2c.rxne
  | .hostOut =>
    s.usb.epOut == .Valid &&
      (match s.host.tx with
        | p :: _ => p.length ≤ s.cfg.mps
        | [] => false)
  | .hostIn =>
    match s.usb.epIn with
    | .Busy _ => true
    | .Free => false
  | .hostCtrl => true
  | .client => s.client.isSome
  | .shell => false
  | .timer => false
  | .usbSvc => false

/-- The steps that can still bring a waiting chunk toward a give (R456). -/
def progressMoves : List Move :=
  [.pStart, .pAddr, .pWbyte, .pRbyte, .pStop, .dmaTx, .dmaRx, .isrI2cEv, .isrDmaTx, .isrDmaRx]

/-- The timeout branch of WAIT is enabled (R456). -/
def State.timeoutEnabled (s : State) : Bool :=
  s.phase == .WAIT && !s.sem &&
    (match s.cfg.timeoutModel with
      | .anyTime => true
      | .stallOnly => progressMoves.all (fun m => !s.hwEnabled m))

/-- The Shell has an enabled step: its loop's (R303, R304, R370) when no chunk is in progress, else the sequencer's. -/
def State.shellEnabled (s : State) : Bool :=
  match s.phase with
  | .IDLE =>
    (match s.sh.pos with
      | .READING => s.sh.recvd.isSome || 1 ≤ s.ins.count
      | .DISPATCH => true
      | .REPLYING => s.sh.sendAtB || s.outs.count < s.cfg.capOut)
  | .CONFIG => s.call.isSome
  | .WAIT => s.sem
  | .RST_WAIT => !s.i2c.peActive
  | _ => true

/-- Some flag is in the set. -/
def Pending.any (p : Pending) : Bool := p.poll || p.recvResume || p.sendResume

/-- The handling of a waiting event has a step: a packet's put must not pass the capacity of the inbound stream, else the
producer holds (R300, R309). -/
def State.eventReady (s : State) (x : UsbEvent) : Bool :=
  match x, s.usb.epOut with
  | .outRx, .Full p => s.ins.fits s.cfg.capIn p.length
  | _, _ => true

/-- The events waiting, as a list to choose from. -/
def Events.toList (e : Events) : List UsbEvent :=
  (if e.outRx then [.outRx] else []) ++ (if e.inDone then [.inDone] else []) ++ (if e.ctrl then [.ctrl] else [])

/-- The waiting events whose handling has a step. -/
def State.readyEvents (s : State) : List UsbEvent := s.usb.events.toList.filter (fun x => s.eventReady x)

/-- The servicing task has an enabled step: while it polls, an event to handle or none waiting; else flags to handle, or
flags to take (R300, R305-R307). -/
def State.svcEnabled (s : State) : Bool :=
  if s.usb.taken.poll then !s.usb.events.any || s.readyEvents != []
  else s.usb.taken.any || s.usb.pending.any

/-- The enabling condition of a step. -/
def State.enabled (s : State) (m : Move) : Bool :=
  match m with
  | .shell => s.shellEnabled
  | .timer => s.timeoutEnabled
  | .usbSvc => s.svcEnabled
  | m => s.hwEnabled m

end Sys2Proof.Machine
end

