-- ==== Sys2Proof/Machine/Bus.lean ====
section
/-!
DEFINITION. The steps of the I2C peripheral and the bus (40_i2c_chunk R207-R210, R213, R222-R224), the two address bytes
among them: putting an address byte on the wire is the meaning of `ADDR_W` and `ADDR_R` (R171, R208).
-/

namespace Sys2Proof.Machine

/-- P-START (R207). -/
def pStartStep (s : State) : State :=
  { s.emit (if s.i2c.bus = .Held then .RSTART else .START) with
    i2c := { s.i2c with
      bus := .Addr s.i2c.sadd (if s.i2c.rdWrn then .R else .W) s.i2c.nbytes.toNat
      start := false } }

/-- After a NACK the peripheral ends the transaction with a STOP by itself (R208, R209). -/
def State.nackStop (s : State) : State :=
  { s.emit .STOP with i2c := { s.i2c with nackf := true, stopf := true, bus := .Idle } }

/-- P-ADDR with the address byte of `a` and `d` (R208): the draw is the target's answer. -/
def pAddrStep (a : Addr7) (d : Dir) (n : Nat) (s : State) : State :=
  match s.drawAck with
  | .ACK => { s.emit (.ADDR a d .ACK) with i2c := { s.i2c with bus := .Data a d 0 n } }
  | .NACK => (s.emit (.ADDR a d .NACK)).nackStop

/-- The address byte of `a` and `d` goes out where the bus is at exactly that byte and the peripheral is ready; elsewhere
the peripheral holds (R208). -/
def putAddress (a : Addr7) (d : Dir) (s : State) : Result :=
  match s.i2c.bus with
  | .Addr a' d' n => if a' = a ∧ d' = d ∧ s.i2c.ready then .next (pAddrStep a d n s) else .next s
  | _ => .next s

/-- `ADDR_W` (R171, R208). -/
def execAddrW (a : Addr7) (s : State) : Result := putAddress a .W s

/-- `ADDR_R` (R171, R208). -/
def execAddrR (a : Addr7) (s : State) : Result := putAddress a .R s

/-- The bus after byte `i` of `n` of a data phase (R209, R210). -/
def nextData (a : Addr7) (d : Dir) (i n : Nat) : Bus := if i + 1 = n then .Held else .Data a d (i + 1) n

/-- P-WBYTE (R209): the draw is the target's answer. -/
def pWbyteStep (s : State) : State :=
  match s.i2c.bus with
  | .Data a .W i n =>
    let s1 := { s with i2c := { s.i2c with txe := true } }
    (match s.drawAck with
      | .NACK => (s1.emit (.WR s.i2c.txdr .NACK)).nackStop
      | .ACK => { s1.emit (.WR s.i2c.txdr .ACK) with i2c := { s1.i2c with bus := nextData a .W i n } })
  | _ => s

/-- The master's acknowledge of byte `i` of a read of `n`: NACK after the last (R173, R210). -/
def readAck (i n : Nat) : Ack := if i + 1 < n then .ACK else .NACK

/-- P-RBYTE (R210): the draw is the byte the target drives. -/
def pRbyteStep (s : State) : State :=
  match s.i2c.bus with
  | .Data a .R i n =>
    { s.emit (.RD s.now.draw (readAck i n)) with
      i2c := { s.i2c with rxdr := s.now.draw, rxne := true, bus := nextData a .R i n } }
  | _ => s

/-- P-STOP (R213): a STOP on an idle bus is absorbed. -/
def pStopStep (s : State) : State :=
  if s.i2c.bus = .Idle then { s with i2c := { s.i2c with stop := false } }
  else { s.emit .STOP with i2c := { s.i2c with stopf := true, bus := .Idle, stop := false } }

/-- P-DISABLE (R222): the draw says whether a stall outlasts the reset. -/
def pDisableStep (s : State) : State :=
  { s with
    trace := if s.i2c.bus = .Idle then s.trace else s.trace ++ [.RELEASE]
    i2c := { s.i2c with
      bus := .Idle
      start := false
      stop := false
      nackf := false
      stopf := false
      berr := false
      txe := true
      rxne := false
      stalled := s.i2c.stalled && s.drawBit
      peActive := false } }

/-- P-NOISE (R223). -/
def pNoiseStep (s : State) : State := { s with i2c := { s.i2c with berr := true } }

/-- P-STALL (R224). -/
def pStallStep (s : State) : State := { s with i2c := { s.i2c with stalled := true } }

end Sys2Proof.Machine
end

