-- ==== Sys2Proof/Machine/Call.lean ====
section
/-!
DEFINITION. The engine call's loop bookkeeping (41_i2c_operations): how a call begins, which chunk is due, and what happens
when a chunk, a transfer and the call return. It touches no shared state and takes no step of its own (41 header), so each
of these runs inside the step that begins the call or ends a chunk (log 13).
-/

namespace Sys2Proof.Machine

/-- Begin a `TRANSFER` (R260): nothing transferred yet, and the first chunk is about to take its CONFIG step. -/
def State.beginXfer (s : State) (c : Call) : State :=
  { s with call := some { c with off := 0 }, eng := { s.eng with total := 0 }, phase := .CONFIG }

/-- The length of the chunk due: greedy, at most `CHUNK_MAX` (R260, R261). -/
def Call.dueLen (c : Call) : Nat := min Config.chunkMax (c.cur.len - c.off)

/-- Whether the chunk due continues without stop: every chunk but the last does (R262). -/
def Call.dueCont (c : Call) : Bool := if c.off + c.dueLen = c.cur.len then c.cur.cont else true

/-- The chunk due, as the engine request `CHUNK` that `TRANSFER` issues (R200, R260); its address is computed in PTR_BITS
bits (R274). -/
def Call.dueChunk (p : Params) (c : Call) : Instr :=
  .chunk c.addr c.cur.dir (ptr p (c.cur.buf + c.off)) c.dueLen c.dueCont

/-- What the Shell replies when its engine call returned `ok` (R384-R387, R391). -/
def State.replyFor (s : State) (r : Reply) (ok : Bool) : State :=
  match r with
  | .silent => s
  | .ok => s.startReply (if ok then Text.ok else Text.error)
  | .data n => s.startReply (if ok then Text.data (s.mem.readN s.cfg.rbuf n) else Text.error)

/-- The read buffer of a failed operation holds any value (R265, I8, log 17). -/
def State.spoilReadBuf (s : State) (b : Option (Nat × Nat)) (ok : Bool) : State :=
  match b with
  | some (buf, len) => if ok then s else s.havoc buf len
  | none => s

/-- The engine call returns `ok` (R265-R268, R272). -/
def State.returnCall (s : State) (c : Call) (ok : Bool) : State :=
  (({ s with call := none, phase := .IDLE, eng := { s.eng with ok := ok } }.spoilReadBuf c.readBuf ok).replyFor c.reply ok)

/-- A transfer of the call returns its total (R263, R265-R270): a shortfall ends the call with ok = 0; a full one is
followed by the next phase, if there is one. -/
def State.returnXfer (s : State) (c : Call) : State :=
  if s.eng.total ≠ c.cur.len then s.returnCall c false
  else match c.next with
    | some x => s.beginXfer { c with cur := x, next := none }
    | none => s.returnCall c true

/-- A chunk of `n` bytes of the call returns (R260, R263): its result is added; a short one ends the transfer; else the next
chunk is issued, or the transfer is complete. -/
def State.returnChunk (s : State) (c : Call) (n : Nat) : State :=
  let s1 := { s with eng := { s.eng with total := s.eng.total + s.eng.res.toNat } }
  if s.eng.res.toNat < n then s1.returnXfer c
  else if c.off + n < c.cur.len then { s1 with call := some { c with off := c.off + n }, phase := .CONFIG }
  else s1.returnXfer c

end Sys2Proof.Machine
end

