-- ==== Sys2Proof/Machine/Sequencer.lean ====
section
/-!
DEFINITION. The steps of the chunk sequencer, the Shell task's steps inside an engine call (40_i2c_chunk R201-R206,
R214-R221). CONFIG is the first step of `CHUNK` and RST_DIS that of `SOFT_RESET`: Engine.lean gives those two instructions
their meanings with the operations here.
-/

namespace Sys2Proof.Machine

/-- A chunk step that reads `TXN`: refused while no record exists ("a read before a chunk writes it is refused", R42; R440, 93
I10). -/
def State.withTxn (s : State) (f : Txn → State) : Result :=
  match s.txn with
  | some t => .next (f t)
  | none => .refused .txnUnwritten

/-- The length the caller asked of the transfer, for `TXN.len` (R201): that of the call in flight. The spec has no chunk
without a transfer (R200: "issued only by `TRANSFER`"), and R42 and R201 give `TXN.len` no value there: the chunk's own `n` is
the model's (DESIGN CHOICE, log 36). -/
def State.callerLen (s : State) (n : Nat) : Nat :=
  match s.call with
  | some c => c.cur.len
  | none => n

/-- CONFIG (R201). -/
def configStep (addr : Addr7) (dir : Dir) (buf n : Nat) (cont : Bool) (s : State) : State :=
  { s with
    txn := some ⟨addr, dir, ptr s.cfg buf, s.callerLen n, BitVec.ofNat 8 n, cont⟩
    i2c := { s.i2c with rdWrn := dir == .R, sadd := addr, nbytes := BitVec.ofNat 8 n }
    phase := .ARM }

/-- ARM (R202). -/
def armStep (s : State) (t : Txn) : State :=
  (s.setChan t.dir { s.chan t.dir with cmar := t.buf, cndtr := t.n }).setPhase .DRAIN

/-- DRAIN (R203). -/
def drainStep (s : State) : State := s.clearSem.setPhase .ENDMA

/-- ENDMA (R204). -/
def endmaStep (s : State) (t : Txn) : State :=
  (s.setChan t.dir { s.chan t.dir with en := true }).setPhase .START

/-- START (R205). -/
def startStep (s : State) : State := { s with i2c := { s.i2c with start := true } }.setPhase .WAIT

/-- WAIT ends, by the signal or by the timeout (R206). -/
def endWait (s : State) (timedOut : Bool) : State :=
  { s with eng := { s.eng with timedOut := timedOut } }.setPhase .EVAL

/-- WAIT (a): the signal is taken (R206, R455). -/
def waitTakeStep (s : State) : State := endWait s.clearSem false

/-- WAIT (b): the timeout (R206). -/
def waitTimeoutStep (s : State) : State := endWait s true

/-- EVAL, with the NACK path's clearing of NACKF and STOPF (R215, R216) and the ghost cause (R442). -/
def evalStep (s : State) (t : Txn) : State :=
  { s with
    eng := { s.eng with res := evalRes s t, cause := evalCause s t }
    i2c := if s.i2c.nackf then { s.i2c with nackf := false, stopf := false } else s.i2c
    phase := .STOPREQ }

/-- STOPREQ (R217). -/
def stopreqStep (s : State) (t : Txn) : State :=
  { s with i2c := if s.eng.timedOut = false ∧ t.cont = false then { s.i2c with stop := true } else s.i2c }.setPhase .DMAOFF

/-- DMAOFF (R218); a failed chunk goes on to the soft reset (R219). -/
def dmaoffStep (s : State) (t : Txn) : State :=
  (s.setChan t.dir { s.chan t.dir with en := false, tcif := false, teif := false }).setPhase
    (if s.eng.res = 0 then .RST_DIS else .REARM)

/-- RST_DIS (R221). -/
def rstDisStep (s : State) : State := { s with i2c := { s.i2c with pe := false } }.setPhase .RST_WAIT

/-- RST_WAIT, once the disable has taken effect (R221, R513). -/
def rstWaitStep (s : State) : State := s.setPhase .RST_EN

/-- RST_EN (R221). -/
def rstEnStep (s : State) : State := { s with i2c := { s.i2c with pe := true, peActive := true } }.setPhase .REARM

/-- The read buffer of a failed read chunk holds any value (R131, I8, log 17). -/
def State.spoilChunk (s : State) : State :=
  match s.txn with
  | some t => if t.dir = .R ∧ s.eng.res = 0 then s.havoc t.buf t.n.toNat else s
  | none => s

/-- The chunk's record is discarded: it "lives for the duration of one DMA chunk, discarded after" (R42, log 18). -/
def State.discardTxn (s : State) : State := { s with txn := none }

/-- The caller's part of the step that ends a chunk (R260, log 13): `n` there is `TRANSFER`'s own. -/
def State.chunkDone (s : State) : State :=
  match s.call with
  | some c => s.returnChunk c c.dueLen
  | none => s

/-- REARM (R220): the sources are re-enabled, the phase is IDLE, the record is discarded, and the chunk's result is returned
to its transfer. It reads no record. -/
def rearmStep (s : State) : State := (s.rearmSources.setPhase .IDLE).spoilChunk.discardTxn.chunkDone

/-- The sequencer's step in each phase other than IDLE, CONFIG and RST_DIS. -/
def sequencerStep (s : State) : Result :=
  match s.phase with
  | .ARM => s.withTxn (armStep s)
  | .DRAIN => .next (drainStep s)
  | .ENDMA => s.withTxn (endmaStep s)
  | .START => .next (startStep s)
  | .WAIT => .next (waitTakeStep s)
  | .EVAL => s.withTxn (evalStep s)
  | .STOPREQ => s.withTxn (stopreqStep s)
  | .DMAOFF => s.withTxn (dmaoffStep s)
  | .RST_WAIT => .next (rstWaitStep s)
  | .RST_EN => .next (rstEnStep s)
  | .REARM => .next (rearmStep s)
  | .IDLE => .next s
  | .CONFIG => .next s
  | .RST_DIS => .next s

end Sys2Proof.Machine
end

