-- ==== Sys2Proof/Machine/Engine.lean ====
section
/-!
DEFINITION. The meanings of the engine requests (41_i2c_operations R260-R268, 40_i2c_chunk R200, R221, 30_encoding R175).
A request of ops 0-4 that is not refused begins its first transfer in one step; the chunk steps follow one at a time.
-/

namespace Sys2Proof.Machine

/-- Make an engine call: refused, or begun with its first transfer. -/
def State.makeCall (s : State) (why : Option Refusal) (c : Call) : Result :=
  match why with
  | some r => .refused r
  | none => .next (s.beginXfer c)

/-- A call of one transfer. -/
def callOne (addr : Addr7) (x : Xfer) (readBuf : Option (Nat × Nat)) (reply : Reply) : Call :=
  ⟨addr, x, 0, none, readBuf, reply⟩

/-- A call of two transfers on one bus transaction (R267, R268). -/
def callTwo (addr : Addr7) (x y : Xfer) (readBuf : Option (Nat × Nat)) (reply : Reply) : Call :=
  ⟨addr, x, 0, some y, readBuf, reply⟩

/-- The engine call `I2C_READ`, with the reply its caller owes (R265). -/
def requestRead (addr : Addr7) (buf len : Nat) (reply : Reply) (s : State) : Result :=
  s.makeCall (refuseOne s buf len) (callOne addr ⟨.R, buf, len, false⟩ (some (buf, len)) reply)

/-- The engine call `I2C_WRITE` (R266). -/
def requestWrite (addr : Addr7) (buf len : Nat) (reply : Reply) (s : State) : Result :=
  s.makeCall (refuseOne s buf len) (callOne addr ⟨.W, buf, len, false⟩ none reply)

/-- The engine call `I2C_WRITE_READ` (R267). -/
def requestWriteRead (addr : Addr7) (buf len buf2 len2 : Nat) (reply : Reply) (s : State) : Result :=
  s.makeCall (refuseTwo s buf len buf2 len2)
    (callTwo addr ⟨.W, buf, len, true⟩ ⟨.R, buf2, len2, false⟩ (some (buf2, len2)) reply)

/-- The engine call `I2C_WRITE_WRITE` (R268). -/
def requestWriteWrite (addr : Addr7) (buf len buf2 len2 : Nat) (reply : Reply) (s : State) : Result :=
  s.makeCall (refuseTwo s buf len buf2 len2)
    (callTwo addr ⟨.W, buf, len, true⟩ ⟨.W, buf2, len2, false⟩ none reply)

/-- The buffer a transfer fills: the whole of it for a read, none for a write. -/
def readBufOf (dir : Dir) (buf len : Nat) : Option (Nat × Nat) :=
  match dir with
  | .R => some (buf, len)
  | .W => none

/-- `TRANSFER` (R260): its total is summed in `ENG.total`. After a read that fails, I8 leaves the buffer open ("a failed
chunk or operation"): that ALL its bytes are free then, those of the chunks that succeeded before the failed one too, is the
model's reading (DESIGN CHOICE, log 17). -/
def execTransfer (addr : Addr7) (dir : Dir) (buf len : Nat) (cont : Bool) (s : State) : Result :=
  s.makeCall (refuseOne s buf len) (callOne addr ⟨dir, buf, len, cont⟩ (readBufOf dir buf len) .silent)

/-- `I2C_READ` (R265), from an engine client. -/
def execI2cRead (addr : Addr7) (buf len : Nat) (s : State) : Result := requestRead addr buf len .silent s

/-- `I2C_WRITE` (R266), from an engine client. -/
def execI2cWrite (addr : Addr7) (buf len : Nat) (s : State) : Result := requestWrite addr buf len .silent s

/-- `I2C_WRITE_READ` (R267), from an engine client. -/
def execI2cWriteRead (addr : Addr7) (buf len buf2 len2 : Nat) (s : State) : Result :=
  requestWriteRead addr buf len buf2 len2 .silent s

/-- `I2C_WRITE_WRITE` (R268), from an engine client. -/
def execI2cWriteWrite (addr : Addr7) (buf len buf2 len2 : Nat) (s : State) : Result :=
  requestWriteWrite addr buf len buf2 len2 .silent s

/-- `CHUNK` (R200): refused from outside the engine (R175), for no byte (R264(a): "the DMA count 0 is not a legal chunk", D5;
log 34) or a buffer past the top (R264(b)), for more than 255 bytes (log 29) and while another chunk is in flight; else its
first step, CONFIG (R201). The phases IDLE and CONFIG are
those in which no chunk is in flight. -/
def execChunk (addr : Addr7) (dir : Dir) (buf n : Nat) (cont : Bool) (s : State) : Result :=
  if s.fromOutside then .refused .internalOp
  else if n = 0 then .refused .zeroLength
  else if Config.chunkMax < n then .refused .chunkTooLong
  else if bufferBad s.cfg buf n then .refused .bufferWraps
  else if s.phase ≠ .IDLE ∧ s.phase ≠ .CONFIG then .refused .concurrentCall
  else .next (configStep addr dir buf n cont s)

/-- `SOFT_RESET` (R221): refused from outside the engine (R175); else its first step, RST_DIS, whatever the bus does. -/
def execSoftReset (s : State) : Result :=
  if s.fromOutside then .refused .internalOp else .next (rstDisStep s)

/-- Op 7 (R175). -/
def execReserved (_s : State) : Result := .refused .reservedOp

end Sys2Proof.Machine
end

