-- ==== Sys2Proof/Machine/Command.lean ====
section
/-!
DEFINITION. The meanings of the command lines (43_command_shell R383-R388). A command checks all its arguments before it
makes its engine request (R382); the data of an argument that decodes, after arguments that all decoded, is written to the
Shell's buffer (R385-R387, log 15). Dispatch is one step of the Shell (log 14).
-/

namespace Sys2Proof.Machine

/-- Write the first bytes of one of the Shell's buffers (R120, R385). -/
def State.fillBuf (s : State) (buf : Nat) (data : List Byte) : State := { s with mem := s.mem.writeN buf data }

/-- `PING` (R383). -/
def execPing (extra : Bool) (s : State) : Result :=
  if extraBad s.cfg extra then .next s.rejectLine else .next (s.startReply Text.ok)

/-- `READ aa nn` (R384). -/
def execRead (aa : Option Addr7) (nn : Option Nat) (extra : Bool) (s : State) : Result :=
  match checkAddr aa, checkLen nn with
  | some a, some n =>
    if extraBad s.cfg extra then .next s.rejectLine
    else requestRead a s.cfg.rbuf n (.data n) s
  | _, _ => .next s.rejectLine

/-- `WRITE aa nn <data>` (R385). -/
def execWrite (aa : Option Addr7) (nn : Option Nat) (data : Option (List Byte)) (extra : Bool) (s : State) : Result :=
  match checkAddr aa, checkLen nn with
  | some a, some n =>
    (match checkData n data with
      | some d =>
        let s1 := s.fillBuf s.cfg.wbuf1 d
        if extraBad s.cfg extra then .next s1.rejectLine
        else requestWrite a s.cfg.wbuf1 n .ok s1
      | none => .next s.rejectLine)
  | _, _ => .next s.rejectLine

/-- `WRITE_READ aa n1 <data1> n2` (R386). -/
def execWriteRead (aa : Option Addr7) (n1 : Option Nat) (data1 : Option (List Byte)) (n2 : Option Nat) (extra : Bool)
    (s : State) : Result :=
  match checkAddr aa, checkLen n1 with
  | some a, some m1 =>
    (match checkData m1 data1 with
      | some d1 =>
        let s1 := s.fillBuf s.cfg.wbuf1 d1
        (match checkLen n2 with
          | some m2 =>
            if extraBad s.cfg extra then .next s1.rejectLine
            else requestWriteRead a s.cfg.wbuf1 m1 s.cfg.rbuf m2 (.data m2) s1
          | none => .next s1.rejectLine)
      | none => .next s.rejectLine)
  | _, _ => .next s.rejectLine

/-- `WRITE_WRITE aa n1 <data1> n2 <data2>` (R387). -/
def execWriteWrite (aa : Option Addr7) (n1 : Option Nat) (data1 : Option (List Byte)) (n2 : Option Nat)
    (data2 : Option (List Byte)) (extra : Bool) (s : State) : Result :=
  match checkAddr aa, checkLen n1 with
  | some a, some m1 =>
    (match checkData m1 data1 with
      | some d1 =>
        let s1 := s.fillBuf s.cfg.wbuf1 d1
        (match checkLen n2 with
          | some m2 =>
            (match checkData m2 data2 with
              | some d2 =>
                let s2 := s1.fillBuf s.cfg.wbuf2 d2
                if extraBad s.cfg extra then .next s2.rejectLine
                else requestWriteWrite a s.cfg.wbuf1 m1 s.cfg.wbuf2 m2 .ok s2
              | none => .next s1.rejectLine)
          | none => .next s1.rejectLine)
      | none => .next s.rejectLine)
  | _, _ => .next s.rejectLine

/-- Any other token 0 (R388), with that token. -/
def execUnrecognized (_keyword : List Byte) (s : State) : Result := .next s.rejectLine

end Sys2Proof.Machine
end

