-- ==== Sys2Proof/Machine/Dispatch.lean ====
section
/-!
DEFINITION. The meaning of each instruction: one arm per constructor of Instr.
-/

namespace Sys2Proof.Machine

def exec (i : Instr) (s : State) : Host.Outcome State Fault Refusal :=
  match i with
  -- command lines
  | .ping extra => Sys2Proof.Machine.execPing extra s
  | .read aa nn extra => Sys2Proof.Machine.execRead aa nn extra s
  | .write aa nn data extra => Sys2Proof.Machine.execWrite aa nn data extra s
  | .writeRead aa n1 data1 n2 extra => Sys2Proof.Machine.execWriteRead aa n1 data1 n2 extra s
  | .writeWrite aa n1 data1 n2 data2 extra => Sys2Proof.Machine.execWriteWrite aa n1 data1 n2 data2 extra s
  | .unrecognized keyword => Sys2Proof.Machine.execUnrecognized keyword s
  -- engine requests
  | .transfer addr dir buf len cont => Sys2Proof.Machine.execTransfer addr dir buf len cont s
  | .i2cRead addr buf len => Sys2Proof.Machine.execI2cRead addr buf len s
  | .i2cWrite addr buf len => Sys2Proof.Machine.execI2cWrite addr buf len s
  | .i2cWriteRead addr buf len buf2 len2 => Sys2Proof.Machine.execI2cWriteRead addr buf len buf2 len2 s
  | .i2cWriteWrite addr buf len buf2 len2 => Sys2Proof.Machine.execI2cWriteWrite addr buf len buf2 len2 s
  | .chunk addr dir buf n cont => Sys2Proof.Machine.execChunk addr dir buf n cont s
  | .softReset => Sys2Proof.Machine.execSoftReset s
  | .reserved => Sys2Proof.Machine.execReserved s
  -- address bytes on the wire
  | .addrW a => Sys2Proof.Machine.execAddrW a s
  | .addrR a => Sys2Proof.Machine.execAddrR a s

end Sys2Proof.Machine
end

