-- ==== Sys2Proof/Machine/DmaSteps.lean ====
section
/-!
DEFINITION. The steps of the two DMA channels (40_i2c_chunk R211, R212).
-/

namespace Sys2Proof.Machine

/-- A channel after an error draw: TEIF set, disabled (R63, R211, R212). -/
def Dma.error (c : Dma) : Dma := { c with teif := true, en := false }

/-- A channel after it has moved one byte: CMAR up, CNDTR down, TCIF at 0 (R211, R212). CMAR is PTR_BITS wide (R62). -/
def Dma.advance (p : Params) (c : Dma) : Dma :=
  { c with cmar := ptr p (c.cmar + 1), cndtr := c.cndtr - 1, tcif := c.tcif || c.cndtr - 1 == 0 }

/-- DMA-TX (R211): the draw is ok or error. -/
def dmaTxStep (s : State) : State :=
  if s.drawBit then { s with tx := s.tx.error }
  else
    { s with
      i2c := { s.i2c with txdr := s.mem.read (ptr s.cfg s.tx.cmar), txe := false }
      tx := s.tx.advance s.cfg }

/-- DMA-RX (R212): the draw is ok or error. -/
def dmaRxStep (s : State) : State :=
  if s.drawBit then { s with rx := s.rx.error }
  else
    { s with
      mem := s.mem.write (ptr s.cfg s.rx.cmar) s.i2c.rxdr
      i2c := { s.i2c with rxne := false }
      rx := s.rx.advance s.cfg }

end Sys2Proof.Machine
end

