-- ==== Sys2Proof/Machine/Irq.lean ====
section
/-!
DEFINITION. The interrupt handlers, one step each (60_exceptions R446-R449, R457, R458, R471).
-/

namespace Sys2Proof.Machine

/-- A handler that completes a chunk: disables its own source and gives (R446, R448). -/
def signalHandler (src : Source) (s : State) : State := (s.enterHandler src).give.leaveHandler

/-- `ISR_I2C_EV` (R446). It leaves NACKF for EVAL. -/
def isrI2cEvStep (s : State) : State := signalHandler .EV s

/-- `ISR_I2C_ER` (R447): clears BERR in place, gives nothing, keeps its source enabled. -/
def isrI2cErStep (s : State) : State := { s with i2c := { s.i2c with berr := false } }.leaveHandler

/-- `ISR_DMA_TX` (R448). -/
def isrDmaTxStep (s : State) : State := signalHandler .DTX s

/-- `ISR_DMA_RX` (R448). -/
def isrDmaRxStep (s : State) : State := signalHandler .DRX s

/-- `ISR_USB` (R449): disables its own source and posts POLL. -/
def isrUsbStep (s : State) : State := ((s.enterHandler .USB).post ⟨true, false, false⟩).leaveHandler

end Sys2Proof.Machine
end

