-- ==== Sys2Proof/Machine/ShellLoop.lean ====
section
/-!
DEFINITION. The Shell's loop outside an engine call: `recv` with line assembly (42_usb_transport R303, 43_command_shell
R370-R373), the dispatch position, and `send` (R304, R389).
-/

namespace Sys2Proof.Machine

/-- The line assembled so far: the bytes a dispatch decodes (R371). -/
def Line.text (l : Line) : List Byte := l.bytes.take l.len

/-- Keep a printable byte, or drop it where the buffer is full (R372, R373). -/
def Line.append (cap : Nat) (l : Line) (c : Byte) : Line :=
  if l.len < cap then ⟨l.bytes.set l.len c, l.len + 1⟩ else l

/-- A line terminator, CR or LF (R161, R371). -/
def isTerminator (c : Byte) : Bool := c == 0x0D || c == 0x0A

/-- Handle one received byte (R371-R373): a terminator after a nonempty line begins its dispatch. -/
def handleByte (c : Byte) (s : State) : State :=
  if isTerminator c then
    (if 0 < s.sh.line.len then { s with sh := { s.sh with pos := .DISPATCH } } else s)
  else if isPrintable c then { s with sh := { s.sh with line := s.sh.line.append s.cfg.lineCap c } }
  else s

/-- `recv(b, 1)`, step 1 (R303): take one byte. -/
def recvTakeStep (s : State) : State :=
  { s with
    ins := s.ins.drop s.cfg.capIn 1
    sh := { s.sh with recvd := (s.ins.peek s.cfg.capIn 1).head? } }

/-- `recv`, step 2 (R303): post RECV_RESUME while the OUT endpoint is held off; then the Shell handles the byte (log 16). -/
def recvPostStep (c : Byte) (s : State) : State :=
  handleByte c { s.post ⟨false, !s.usb.receiving, false⟩ with sh := { s.sh with recvd := none } }

/-- `send`, step A (R304): put what fits. -/
def sendPutStep (s : State) : State :=
  let k := min s.sh.sendRest.length (s.cfg.capOut - s.outs.count)
  { s with
    outs := s.outs.put s.cfg.capOut (s.sh.sendRest.take k)
    sh := { s.sh with sendRest := s.sh.sendRest.drop k, sendAtB := true } }

/-- The dispatch is over: the line buffer is empty and the Shell reads again (R371, R374). -/
def endDispatch (s : State) : State :=
  { s with sh := { s.sh with pos := .READING, line := { s.sh.line with len := 0 } } }

/-- `send`, step B (R304): post SEND_RESUME while nothing is being sent; then the next step A, or the return. -/
def sendPostStep (s : State) : State :=
  let s1 := { s.post ⟨false, false, !s.usb.sending⟩ with sh := { s.sh with sendAtB := false } }
  if s.sh.sendRest = [] then endDispatch s1 else s1

/-- The Shell's next loop step, outside an engine call and outside dispatch. -/
def shellLoopStep (s : State) : State :=
  match s.sh.pos with
  | .READING =>
    (match s.sh.recvd with
      | some c => recvPostStep c s
      | none => recvTakeStep s)
  | .DISPATCH => s
  | .REPLYING => if s.sh.sendAtB then sendPostStep s else sendPutStep s

end Sys2Proof.Machine
end

