-- ==== Sys2Proof/Machine/UsbSvc.lean ====
section
/-!
DEFINITION. The USB servicing task (42_usb_transport R305-R310, R313, R314, R330, R331) and the host's moves (R308, R312,
70_reset_and_hazards R541).
-/

namespace Sys2Proof.Machine

/-- The free room of the inbound stream (R309-R311). -/
def State.insRoom (s : State) : Nat := s.cfg.capIn - s.ins.count

/-- `pull` (R330). A pull while the IN endpoint is busy does nothing; no empty packet is queued (R333). -/
def State.pull (s : State) : State :=
  match s.usb.epIn with
  | .Busy _ => s
  | .Free =>
    let n := min s.outs.count s.cfg.mps
    if n = 0 then { s with usb := { s.usb with sending := false } }
    else
      { s with
        outs := s.outs.drop s.cfg.capOut n
        usb := { s.usb with epIn := .Busy (s.outs.peek s.cfg.capOut n), sending := n == s.cfg.mps } }

/-- OUT_RX handling (R309). The packet fits: R311, and `State.eventReady` in every state. An event without a packet changes
nothing (log 33). -/
def outRxStep (s : State) : State :=
  match s.usb.epOut with
  | .Full p =>
    let q := s.ins.put s.cfg.capIn p
    if s.cfg.capIn - q.count < s.cfg.mps then
      { s with ins := q, usb := { s.usb with epOut := .Nak, receiving := false } }
    else { s with ins := q, usb := { s.usb with epOut := .Valid } }
  | _ => s

/-- IN_DONE handling (R313). -/
def inDoneStep (s : State) : State := s.pull

/-- CTRL handling: no state of this block (R314, log 20). -/
def ctrlStep (s : State) : State := s

/-- One event taken out of the set (R307). -/
def Events.remove (e : Events) (x : UsbEvent) : Events :=
  match x with
  | .outRx => { e with outRx := false }
  | .inDone => { e with inDone := false }
  | .ctrl => { e with ctrl := false }

/-- `choose e in USB.events`: the draw picks any waiting event that is ready (R307, D59, log 27). -/
def State.chooseEvent (s : State) : Option UsbEvent :=
  s.readyEvents[s.now.draw.toNat % s.readyEvents.length]?

/-- Handle one event (R307). -/
def handleEvent (x : UsbEvent) (s : State) : State :=
  match x with
  | .outRx => outRxStep s
  | .inDone => inDoneStep s
  | .ctrl => ctrlStep s

/-- The POLL sequence ends: no event waits, and the interrupt is re-enabled in the same step (R307). -/
def pollEnd (s : State) : State :=
  { s with usb := { s.usb with taken := { s.usb.taken with poll := false } } }.setIrqen .USB true

/-- A POLL step (R307): handle one event, or find none waiting. Where a packet that does not fit is all that waits, the
producer holds (R300). -/
def pollStep (s : State) : State :=
  match s.chooseEvent with
  | some x => handleEvent x { s with usb := { s.usb with events := s.usb.events.remove x } }
  | none => if s.usb.events.any then s else pollEnd s

/-- RECV_RESUME handling (R310). -/
def recvResumeStep (s : State) : State :=
  let s1 := { s with usb := { s.usb with taken := { s.usb.taken with recvResume := false } } }
  if s.usb.receiving = false ∧ s.cfg.mps ≤ s.insRoom then
    { s1 with usb := { s1.usb with epOut := .Valid, receiving := true } }
  else s1

/-- SEND_RESUME handling, the kick (R331). -/
def sendResumeStep (s : State) : State :=
  let s1 := { s with usb := { s.usb with taken := { s.usb.taken with sendResume := false } } }
  if s.usb.sending then s1 else s1.pull

/-- Take-all (R306). -/
def takeAllStep (s : State) : State :=
  { s with usb := { s.usb with taken := s.usb.pending, pending := Pending.empty } }

/-- The servicing task's next step: the flags taken, in the fixed order, then the next round (R305). -/
def svcStep (s : State) : State :=
  if s.usb.taken.poll then pollStep s
  else if s.usb.taken.recvResume then recvResumeStep s
  else if s.usb.taken.sendResume then sendResumeStep s
  else takeAllStep s

/-! ## The host -/

/-- HOST-OUT (R308). -/
def hostOutStep (s : State) : State :=
  match s.host.tx with
  | p :: rest =>
    { s with
      host := { s.host with tx := rest }
      usb := { s.usb with epOut := .Full p, events := { s.usb.events with outRx := true } } }
  | [] => s

/-- HOST-IN (R312). -/
def hostInStep (s : State) : State :=
  match s.usb.epIn with
  | .Busy p =>
    { s with
      host := { s.host with rx := s.host.rx ++ [p] }
      usb := { s.usb with epIn := .Free, events := { s.usb.events with inDone := true } } }
  | .Free => s

/-- A control request of the host: a CTRL event (R70, R541). -/
def hostCtrlStep (s : State) : State := { s with usb := { s.usb with events := { s.usb.events with ctrl := true } } }

end Sys2Proof.Machine
end

