-- ==== Sys2Proof/Machine/Fetch.lean ====
section
/-!
DEFINITION. What one step of the machine is made of: the choice of who moves (00_scope R18, 60_exceptions R451, R472), the
instruction that agent is at, if it is at one, and every other atomic step. Step.lean puts them together.
-/

namespace Sys2Proof.Machine

/-- A configuration the spec refuses (R311, D27, log 25). -/
def configRefusal (p : Params) : Option Refusal :=
  if p.capIn < p.mps then some .capInLtMps
  else if p.capOut = 0 then some .capOutZero
  else none

/-- Take up the next choice: the first one listed, or a free one (log 1). -/
def State.takeChoice (s : State) : State :=
  match s.sched with
  | c :: rest => { s with now := c, sched := rest }
  | [] => { s with now := Config.freeChoice s.tick, tick := s.tick + 1 }

/-- The instruction the Shell is at: the line to dispatch (R374), the chunk its transfer issues (R260), or the soft reset
its settle issues (R219, R221). -/
def State.shellInstr (s : State) : Option Instr :=
  match s.phase with
  | .IDLE => if s.sh.pos = .DISPATCH then some (decodeLine s.cfg s.sh.line.text) else none
  | .CONFIG => s.call.map (Call.dueChunk s.cfg)
  | .RST_DIS => some .softReset
  | _ => none

/-- The address byte the bus is at, as it stands on the wire (R171, R208). -/
def State.wireInstr (s : State) : Option Instr :=
  match s.i2c.bus with
  | .Addr a d _ => some (decodeWire (wireByte a d))
  | _ => none

/-- The instruction that the agent of the choice is at, if it is at one. -/
def State.fetch (s : State) : Option Instr :=
  match s.now.move with
  | .shell => s.shellInstr
  | .client => s.client.map decodeRequest
  | .pAddr => s.wireInstr
  | _ => none

/-- A client's request is taken up in the step that runs it (log 12). -/
def State.accept (s : State) : State :=
  if s.now.move = .client then { s with client := none } else s

/-- Every atomic step that is not the running of an instruction. -/
def act (m : Move) (s : State) : Result :=
  match m with
  | .shell => if s.phase = .IDLE then .next (shellLoopStep s) else sequencerStep s
  | .timer => .next (waitTimeoutStep s)
  | .usbSvc => .next (svcStep s)
  | .isrI2cEv => .next (isrI2cEvStep s)
  | .isrI2cEr => .next (isrI2cErStep s)
  | .isrDmaTx => .next (isrDmaTxStep s)
  | .isrDmaRx => .next (isrDmaRxStep s)
  | .isrUsb => .next (isrUsbStep s)
  | .pStart => .next (pStartStep s)
  | .pAddr => .next s
  | .pWbyte => .next (pWbyteStep s)
  | .pRbyte => .next (pRbyteStep s)
  | .pStop => .next (pStopStep s)
  | .pDisable => .next (pDisableStep s)
  | .pNoise => .next (pNoiseStep s)
  | .pStall => .next (pStallStep s)
  | .dmaTx => .next (dmaTxStep s)
  | .dmaRx => .next (dmaRxStep s)
  | .hostOut => .next (hostOutStep s)
  | .hostIn => .next (hostInStep s)
  | .hostCtrl => .next (hostCtrlStep s)
  | .client => .next s

/-- A step of the agent chosen: taken where it is enabled; an agent that holds has no step, and nothing changes (R17, log 3). -/
def micro (s : State) : Result := if s.enabled s.now.move then act s.now.move s else .next s

/-! ## Placing an instruction where the next step runs it (logs 10, 11) -/

/-- Let the next step be that of one agent, with draw 0. -/
def State.letMove (s : State) (m : Move) : State := { s with sched := ⟨m, 0⟩ :: s.sched }

/-- Place a command line at the Shell's dispatch. -/
def State.placeLine (s : State) (bs : List Byte) : State :=
  { s with
    phase := .IDLE
    sh := { s.sh with pos := .DISPATCH, line := ⟨bs ++ s.sh.line.bytes.drop bs.length, bs.length⟩ } }.letMove .shell

/-- Place an address byte on the bus, for a transaction of one byte. -/
def State.placeAddress (s : State) (a : Addr7) (d : Dir) : State :=
  { s with i2c := { s.i2c with peActive := true, stalled := false, bus := .Addr a d 1 } }.letMove .pAddr

/-- Place an instruction of a request record: ops 5 and 6 where the engine itself issues them, any other as an engine
client's request. -/
def State.placeRequest (s : State) (r : Request) : State :=
  match decodeRequest r with
  | .chunk addr dir buf n cont =>
    { s with phase := .CONFIG, call := some (callOne addr ⟨dir, buf, n, cont⟩ none .silent) }.letMove .shell
  | .softReset => { s with phase := .RST_DIS }.letMove .shell
  | _ => { s with client := some r }.letMove .client

/-- Place a word of the opcode table. -/
def State.placeWord (s : State) (nbits w : Nat) : State :=
  match tableForm nbits w with
  | .line => s.placeLine (tableBytes nbits w)
  | .request => s.placeRequest (bytesToRequest s.cfg (tableBytes nbits w))
  | .wire =>
    match decodeWire (BitVec.ofNat 8 w) with
    | .addrR a => s.placeAddress a .R
    | .addrW a => s.placeAddress a .W
    | _ => s

end Sys2Proof.Machine
end

