-- ==== Sys2Proof/Machine/Step.lean ====
section
/-!
DEFINITION. One step of the machine: one atomic step of one agent (00_scope R18).
-/

namespace Sys2Proof.Machine

/-- One step: the configuration is one the spec admits; the next choice is taken up; the agent it names runs the
instruction it is at, or takes its other step, or holds. -/
def step (s : State) : Host.Outcome State Fault Refusal :=
  match configRefusal s.cfg with
  | some r => .refused r
  | none =>
    match s.takeChoice.fetch with
    | some i => exec i s.takeChoice.accept
    | none => micro s.takeChoice

/-- The state with a word of the opcode table placed where the next step runs it (logs 10, 11). -/
def State.withFetchWord (s : State) (nbits w : Nat) : State := s.placeWord nbits w

end Sys2Proof.Machine
end

