-- ==== Sys2Proof/Safety.lean ====
section
/-!
DEFINITION. The terms claims about the machine use: runs, the invariants that every step keeps, the launch premises
(70_reset_and_hazards R504, R542), and the end of a run (R540).
-/

namespace Sys2Proof.Machine

/-! ## Runs -/

/-- `k` steps, ending at the first stop. -/
def steps : Nat → State → Result
  | 0, s => .next s
  | k + 1, s =>
    match step s with
    | .next s' => steps k s'
    | .fault f => .fault f
    | .refused r => .refused r

/-- The next step is one of agent step `m` with draw `d`, in a configuration the spec admits. -/
abbrev Turn (s : State) (m : Move) (d : Byte) (rest : List Choice) : Prop :=
  s.sched = ⟨m, d⟩ :: rest ∧ configRefusal s.cfg = none

/-- The state in which that step runs: the choice is taken up. -/
def State.chosen (s : State) (m : Move) (d : Byte) (rest : List Choice) : State :=
  { s with now := ⟨m, d⟩, sched := rest }

/-! ## Configurations -/

/-- A configuration of R10 and D27, with the Shell's three 64-byte buffers inside the data memory and apart from one another
(R72, R120, log 5). That MPS is 1 or more is the model's choice: no rule names MPS = 0, and the step does not refuse it (DESIGN
CHOICE, log 35). -/
abbrev ParamsOk (p : Params) : Prop :=
  1 ≤ p.mps ∧ p.mps ≤ p.capIn ∧ 1 ≤ p.capOut
    ∧ p.wbuf1 + Config.cmdLenMax ≤ memTop p ∧ p.wbuf2 + Config.cmdLenMax ≤ memTop p
    ∧ p.rbuf + Config.cmdLenMax ≤ memTop p
    ∧ (p.wbuf1 + Config.cmdLenMax ≤ p.wbuf2 ∨ p.wbuf2 + Config.cmdLenMax ≤ p.wbuf1)
    ∧ (p.wbuf1 + Config.cmdLenMax ≤ p.rbuf ∨ p.rbuf + Config.cmdLenMax ≤ p.wbuf1)
    ∧ (p.wbuf2 + Config.cmdLenMax ≤ p.rbuf ∨ p.rbuf + Config.cmdLenMax ≤ p.wbuf2)

/-- A command line's checks all pass (R375, R382, R384-R388): what decides whether it makes its engine request. -/
def lineChecks (p : Params) : Instr → Bool
  | .ping extra => !extraBad p extra
  | .read aa nn extra => wfAddr aa && wfLen nn && !extraBad p extra
  | .write aa nn data extra => wfAddr aa && wfLen nn && wfData nn data && !extraBad p extra
  | .writeRead aa n1 data1 n2 extra => wfAddr aa && wfLen n1 && wfData n1 data1 && wfLen n2 && !extraBad p extra
  | .writeWrite aa n1 data1 n2 data2 extra =>
      wfAddr aa && wfLen n1 && wfData n1 data1 && wfLen n2 && wfData n2 data2 && !extraBad p extra
  | _ => false

/-! ## Byte streams and the USB flow -/

/-- A stream of capacity `cap` (R64): "count never exceeds capacity", and `wr = (rd + count) mod cap`. -/
abbrev StreamOk (cap : Nat) (q : ByteStream) : Prop :=
  q.buf.length = cap ∧ q.rd < cap ∧ q.count ≤ cap ∧ q.wr = (q.rd + q.count) % cap

/-- The bytes in a stream, oldest first. -/
def ByteStream.contents (cap : Nat) (q : ByteStream) : List Byte := q.peek cap q.count

/-- The packet in the OUT endpoint is no longer than MPS (R68). -/
def epOutFits (p : Params) : EpOut → Bool
  | .Full b => b.length ≤ p.mps
  | _ => true

/-- The packet in the IN endpoint has 1..MPS bytes (R69). -/
def epInFits (p : Params) : EpIn → Bool
  | .Busy b => 1 ≤ b.length && b.length ≤ p.mps
  | .Free => true

/-- The transport: both streams, room for a packet whenever `receiving` (R311), the endpoint held off exactly when not
`receiving` (R65, R309, R310), packets of legal size. That MPS is 1 or more is the model's choice (DESIGN CHOICE, log 35). -/
abbrev TransportOk (s : State) : Prop :=
  1 ≤ s.cfg.mps ∧ s.cfg.mps ≤ s.cfg.capIn ∧ 1 ≤ s.cfg.capOut
    ∧ StreamOk s.cfg.capIn s.ins ∧ StreamOk s.cfg.capOut s.outs
    ∧ (s.usb.receiving = true → s.cfg.mps ≤ s.insRoom)
    ∧ (s.usb.receiving = false ↔ s.usb.epOut = .Nak)
    ∧ epOutFits s.cfg s.usb.epOut = true ∧ epInFits s.cfg s.usb.epIn = true

/-- A packet in the OUT endpoint has its event waiting (R308). -/
def Usb.announced (u : Usb) : Bool :=
  match u.epOut with
  | .Full _ => u.events.outRx
  | _ => true

/-- The servicing task has the flag pending, or taken and not yet handled. -/
def Usb.owes (u : Usb) (flag : Pending → Bool) : Bool := flag u.pending || flag u.taken

/-- No byte waits for ever (R332, R449, R478, R518): what is owed wherever an agent waits for another.

`sending` lasts until the pull of an IN_DONE that comes. Bytes put while nothing is being sent have a kick coming: SEND_RESUME
posted or about to be, or a packet whose IN_DONE pulls them. A call that owes a reply was made by a line being dispatched. A
disabled USB interrupt is re-enabled by a POLL that comes. An endpoint held off has no room, or a recv-resume is posted or
about to be. A packet in the endpoint has its event. The host's packets have at most MPS bytes. -/
abbrev FlowOk (s : State) : Prop :=
  (s.usb.sending = true → s.usb.epIn ≠ .Free ∨ s.usb.events.inDone = true)
    ∧ (1 ≤ s.outs.count → s.usb.sending = false →
        s.usb.owes Pending.sendResume = true ∨ (s.sh.pos = .REPLYING ∧ s.sh.sendAtB = true)
          ∨ s.usb.epIn ≠ .Free ∨ s.usb.events.inDone = true)
    ∧ (∀ c ∈ s.call, s.phase ≠ .IDLE ∧ (c.reply ≠ .silent → s.sh.pos = .DISPATCH))
    ∧ (s.irqen.usb = false → s.usb.owes Pending.poll = true)
    ∧ (s.usb.receiving = false →
        s.insRoom < s.cfg.mps ∨ s.usb.owes Pending.recvResume = true ∨ s.sh.recvd ≠ none)
    ∧ s.usb.announced = true
    ∧ (∀ p ∈ s.host.tx, p.length ≤ s.cfg.mps)

/-! ## The engine -/

/-- The phases in which a chunk's record is written: after CONFIG (R201). -/
def Phase.inChunk : Phase → Bool
  | .IDLE => false
  | .CONFIG => false
  | _ => true

/-- The phases in which the chunk's channel may be enabled: from after ENDMA to DMAOFF (R204, R218). -/
def Phase.dmaOn : Phase → Bool
  | .START => true
  | .WAIT => true
  | .EVAL => true
  | .STOPREQ => true
  | .DMAOFF => true
  | _ => false

/-- The phases after EVAL. -/
def Phase.evaluated : Phase → Bool
  | .STOPREQ => true
  | .DMAOFF => true
  | .RST_DIS => true
  | .RST_WAIT => true
  | .RST_EN => true
  | .REARM => true
  | _ => false

/-- The phases of the soft reset. -/
def Phase.resetting : Phase → Bool
  | .RST_DIS => true
  | .RST_WAIT => true
  | .RST_EN => true
  | _ => false

/-- A transfer's buffer lies in the data memory (R264(b)). -/
abbrev XferOk (p : Params) (x : Xfer) : Prop := x.buf + x.len ≤ memTop p

/-- A second phase of length 0, about to be refused at its CONFIG (R264(a), log 34). -/
abbrev EmptySecond (ph : Phase) (c : Call) : Prop := ph = .CONFIG ∧ c.cur.len = 0 ∧ c.off = 0 ∧ c.next = none

/-- The engine call in flight: within its transfer (R260), but for an empty second phase; at the start of a chunk, so at a
multiple of 255 (R261), which is the total so far (R274), its buffers in memory. -/
def callOk (p : Params) (ph : Phase) (total : Nat) (c : Call) : Bool :=
  decide (XferOk p c.cur ∧ (c.off < c.cur.len ∨ EmptySecond ph c) ∧ c.off % Config.chunkMax = 0 ∧ total = c.off
    ∧ (∀ x ∈ c.next, XferOk p x))

/-- The chunk's record is that of the chunk due (R201, R260). -/
def txnMatches (p : Params) (c : Call) (t : Txn) : Bool :=
  t.addr == c.addr && t.dir == c.cur.dir && t.buf == ptr p (c.cur.buf + c.off) && t.n.toNat == c.dueLen
    && t.cont == c.dueCont && t.len == c.cur.len

/-- The bus state counts within its transaction (R56). -/
def busOk : Bus → Bool
  | .Addr _ _ n => 1 ≤ n
  | .Data _ _ i n => i < n
  | _ => true

/-- A channel at rest: disabled, no flag (R202, R218). -/
def Dma.atRest (c : Dma) : Bool := !c.en && !c.tcif && !c.teif

/-- The channels: the one that does not serve the chunk is at rest, and so is the other outside the phases from ENDMA to
DMAOFF (R202, R218, R514). -/
def channelsOk (s : State) : Bool :=
  match s.txn with
  | some t =>
    (match t.dir with
      | .W => s.rx.atRest && (s.phase.dmaOn || s.tx.atRest)
      | .R => s.tx.atRest && (s.phase.dmaOn || s.rx.atRest))
  | none => s.tx.atRest && s.rx.atRest

/-- The record and the result in a chunk: the record exists exactly in a chunk, from CONFIG to REARM (R42), and is the
chunk's; a result is all or nothing (R229), and a soft reset runs only after a result of 0 (R219). -/
def chunkOk (s : State) : Bool :=
  match s.call with
  | none => s.phase == .IDLE && s.txn == none
  | some c =>
    callOk s.cfg s.phase s.eng.total c && s.phase != .IDLE && s.phase.inChunk == s.txn.isSome &&
      (match s.txn with
        | none => true
        | some t =>
          txnMatches s.cfg c t && s.i2c.nbytes == t.n
            && (!s.phase.evaluated || s.eng.res == 0 || s.eng.res == t.n)
            && (!s.phase.resetting || s.eng.res == 0))

/-- The peripheral is enabled except while a soft reset has it disabled (R46, R221, R513). -/
def enableOk (s : State) : Bool :=
  match s.phase with
  | .RST_WAIT => !s.i2c.pe
  | .RST_EN => !s.i2c.pe && !s.i2c.peActive
  | _ => s.i2c.pe && s.i2c.peActive

/-- The engine, its channels, the peripheral and the bus. -/
abbrev EngineOk (s : State) : Prop :=
  ParamsOk s.cfg ∧ chunkOk s = true ∧ channelsOk s = true ∧ enableOk s = true ∧ busOk s.i2c.bus = true
    ∧ (s.i2c.start = true → s.i2c.nbytes ≠ 0)

/-- The call in flight has no phase of length 0: only an engine client's request can have one (R382, R264(a), log 34). -/
abbrev NoEmptyPhase (s : State) : Prop := ∀ c ∈ s.call, 1 ≤ c.cur.len ∧ ∀ x ∈ c.next, 1 ≤ x.len

/-- The Shell's line buffer: LINE_CAP bytes, of which at most that many counted (R71). -/
abbrev LineOk (s : State) : Prop := s.sh.line.bytes.length = s.cfg.lineCap ∧ s.sh.line.len ≤ s.cfg.lineCap

/-! ## Launch (R504, R542) -/

/-- A stream at its start: its size, nothing in it (R501). Its bytes are unspecified. -/
abbrev ByteStream.fresh (cap : Nat) (q : ByteStream) : Prop := q.buf.length = cap ∧ q.wr = 0 ∧ q.rd = 0 ∧ q.count = 0

/-- A channel at its start (R501). CMAR and CNDTR are unspecified. -/
abbrev Dma.fresh (c : Dma) : Prop := c.en = false ∧ c.tcif = false ∧ c.teif = false

/-- The peripheral at its start (R501). SADD, RD_WRN, NBYTES, TXDR and RXDR are unspecified. -/
abbrev I2cp.fresh (c : I2cp) : Prop :=
  c.pe = true ∧ c.peActive = true ∧ c.start = false ∧ c.stop = false ∧ c.nackf = false ∧ c.stopf = false ∧ c.berr = false
    ∧ c.txe = true ∧ c.rxne = false ∧ c.bus = .Idle ∧ c.stalled = false

/-- `CleanEntry` (R504): the state of R501 with a launch input in `HOST.tx`. Every field to which R501 gives a value has it; a
field it leaves unspecified has any value, and so have the parameters, within R10, R311, D27 and `ParamsOk` (logs 5, 35). Of the model's own fields:
no call and no client's request, the Shell at the first step of `recv` with nothing to send (R503), canonical memory, any
choices. -/
abbrev CleanEntry (s : State) : Prop :=
  ParamsOk s.cfg ∧ s.phase = .IDLE ∧ s.txn = none ∧ s.call = none ∧ s.sem = false
    ∧ s.irqen = ⟨true, true, true, true, true⟩ ∧ s.i2c.fresh ∧ s.trace = [] ∧ s.tx.fresh ∧ s.rx.fresh
    ∧ s.ins.fresh s.cfg.capIn ∧ s.outs.fresh s.cfg.capOut
    ∧ s.usb = ⟨true, false, Pending.empty, .Valid, .Free, Events.empty, Pending.empty⟩
    ∧ s.sh.line.len = 0 ∧ s.sh.line.bytes.length = s.cfg.lineCap ∧ s.sh.pos = .READING ∧ s.sh.recvd = none
    ∧ s.sh.sendRest = [] ∧ s.sh.sendAtB = false
    ∧ (∀ p ∈ s.host.tx, p.length ≤ s.cfg.mps) ∧ s.host.rx = []
    ∧ s.mem.wf = true ∧ s.client = none

/-- `EngineIdle` (R504). -/
abbrev EngineIdle (s : State) : Prop :=
  s.phase = .IDLE ∧ s.sem = false ∧ s.i2c.nackf = false ∧ s.i2c.stopf = false ∧ s.i2c.berr = false

/-- A state with this input waiting in `HOST.tx`. -/
def State.withInput (s : State) (packets : List (List Byte)) : State :=
  { s with host := { s.host with tx := packets } }

/-- `HostInput(bytes, split)` (R542): `HOST.tx` is the byte list split into packets of these lengths, each at most MPS. -/
def HostInput (s : State) (bytes : List Byte) (split : List Nat) : Prop :=
  s.host.tx.flatten = bytes ∧ s.host.tx.map List.length = split ∧ ∀ n ∈ split, n ≤ s.cfg.mps

/-- An execution: the states `r 0`, `r 1`, ... that the choices `c 0`, `c 1`, ... give, one step each, none of which stops. -/
def Execution (c : Nat → Choice) (r : Nat → State) : Prop :=
  ∀ k, step { r k with sched := [c k] } = .next (r (k + 1))

/-- Agent step `m` is taken at `k`: it is chosen where it is enabled. -/
def Takes (c : Nat → Choice) (r : Nat → State) (k : Nat) (m : Move) : Prop := (c k).move = m ∧ (r k).enabled m = true

/-- The draw at `k` is this acknowledge (R172, log 2). -/
def Answers (c : Nat → Choice) (k : Nat) (a : Ack) : Prop := (c k).draw.getLsbD 0 = (a == .NACK)

/-- A target model: what fixes the oracle `TGT` of R60 over a run (95_test_vectors section 0). Every one of them makes no
noise. -/
structure Target where
  /-- The answer to an address byte. -/
  addrAck  : Addr7 → Dir → Ack
  /-- The answer to the j-th data byte written in the run, counting from 1. -/
  writeAck : Nat → Ack
  /-- The bytes sent, in order, across all read bytes of the run. -/
  data     : List Byte
  /-- It stalls after the first address byte, before any data byte; a soft reset frees it. Otherwise it never stalls. -/
  stallAfterAddr : Bool
  /-- The first DMA byte transfer of the run errs. No other one errs. -/
  dmaErrFirst    : Bool

/-- `TGT_ACK_ALL(data)`. -/
def Target.ackAll (data : List Byte) : Target := ⟨fun _ _ => .ACK, fun _ => .ACK, data, false, false⟩

/-- `TGT_NACK_ADDR(a)`. -/
def Target.nackAddr (a : Addr7) (data : List Byte) : Target :=
  { Target.ackAll data with addrAck := fun x _ => if x = a then .NACK else .ACK }

/-- `TGT_NACK_RADDR(a)`. -/
def Target.nackRaddr (a : Addr7) (data : List Byte) : Target :=
  { Target.ackAll data with addrAck := fun x d => if x = a ∧ d = .R then .NACK else .ACK }

/-- `TGT_NACK_WBYTE(j)`. -/
def Target.nackWbyte (j : Nat) (data : List Byte) : Target :=
  { Target.ackAll data with writeAck := fun i => if i = j then .NACK else .ACK }

/-- `TGT_STALL_AFTER_ADDR`. Section 0 gives it the ACK of the first address byte, the stall and the draw that frees it, and does
not say "as `TGT_ACK_ALL`": that it ACKs every later address and byte, sends its data, stalls no second time, makes no noise
and has no DMA error is the model's (DESIGN CHOICE, log 37). -/
def Target.stallAfterAddress (data : List Byte) : Target := { Target.ackAll data with stallAfterAddr := true }

/-- `DMA_ERR_FIRST`. -/
def Target.dmaErrsFirst (data : List Byte) : Target := { Target.ackAll data with dmaErrFirst := true }

/-- An address byte on the bus. -/
def BusEvent.isAddr : BusEvent → Bool
  | .ADDR _ _ _ => true
  | _ => false

/-- A data byte written. -/
def BusEvent.isWrite : BusEvent → Bool
  | .WR _ _ => true
  | _ => false

/-- A data byte read. -/
def BusEvent.isRead : BusEvent → Bool
  | .RD _ _ => true
  | _ => false

/-- The data phase of the run's first address byte, before any data byte. -/
def State.atFirstData (s : State) : Prop :=
  s.trace.countP BusEvent.isAddr = 1 ∧ s.trace.countP BusEvent.isWrite = 0 ∧ s.trace.countP BusEvent.isRead = 0
    ∧ (s.i2c.bus.inData .W = true ∨ s.i2c.bus.inData .R = true)

/-- The stall of TGT_STALL_AFTER_ADDR: P-STALL is taken in the first data phase, where it comes, and nowhere else; no data
byte goes before it; the soft reset's draw frees it. A target without it takes no P-STALL. -/
def StallsAs (tgt : Target) (c : Nat → Choice) (r : Nat → State) : Prop :=
  (∀ k, Takes c r k .pStall → tgt.stallAfterAddr = true ∧ (r k).atFirstData) ∧
  (tgt.stallAfterAddr = true → ∀ k,
    ((r k).atFirstData → (∃ j, k ≤ j ∧ (r j).i2c.stalled = true) ∧ ¬ Takes c r k .pWbyte ∧ ¬ Takes c r k .pRbyte) ∧
    (Takes c r k .pDisable → (c k).draw.getLsbD 0 = false))

/-- The DMA draws: an error at the first byte of the run under DMA_ERR_FIRST, and none else. -/
def DmaErrsAs (tgt : Target) (c : Nat → Choice) (r : Nat → State) : Prop :=
  ∀ k, Takes c r k .dmaTx ∨ Takes c r k .dmaRx →
    ((c k).draw.getLsbD 0 = true ↔
      tgt.dmaErrFirst = true ∧ ∀ j < k, ¬ Takes c r j .dmaTx ∧ ¬ Takes c r j .dmaRx)

/-- `TargetModel(TGT)` (R60, R542): every draw of the execution is what the target gives, and there is no noise. That read
bytes past the end of the target's data are any is the model's (DESIGN CHOICE, log 37). -/
def TargetModel (tgt : Target) (c : Nat → Choice) (r : Nat → State) : Prop :=
  (∀ k, Takes c r k .pAddr → ∀ a d n, (r k).i2c.bus = .Addr a d n → Answers c k (tgt.addrAck a d)) ∧
  (∀ k, Takes c r k .pWbyte → Answers c k (tgt.writeAck ((r k).trace.countP BusEvent.isWrite + 1))) ∧
  (∀ k, Takes c r k .pRbyte → ∀ b ∈ tgt.data[(r k).trace.countP BusEvent.isRead]?, (c k).draw = b) ∧
  (∀ k, ¬ Takes c r k .pNoise) ∧ StallsAs tgt c r ∧ DmaErrsAs tgt c r

/-- The launch premises of R542, named and shared: the clean entry, the parameters of R10 chosen for the run, the host's
input, and the target model. -/
structure Launch (p : Params) (bytes : List Byte) (split : List Nat) (tgt : Target) (c : Nat → Choice)
    (r : Nat → State) : Prop where
  clean  : CleanEntry (r 0)
  params : (r 0).cfg = p
  input  : HostInput (r 0) bytes split
  target : TargetModel tgt c r
  run    : Execution c r

/-! ## The end of a run (R540) -/

/-- The steps none of which is enabled at the end of a run (R540): all but noise, stall, the bus-error handler, a control
request and a client's request. -/
def quiescentMoves : List Move :=
  [.shell, .timer, .usbSvc, .isrI2cEv, .isrDmaTx, .isrDmaRx, .isrUsb, .pStart, .pAddr, .pWbyte, .pRbyte, .pStop, .pDisable,
    .dmaTx, .dmaRx, .hostOut, .hostIn]

/-- A quiescent state (R540). -/
def Quiescent (s : State) : Bool := quiescentMoves.all (fun m => !s.enabled m)

/-- What R540 says of the state a run ends in. -/
abbrev AtRest (s : State) : Prop :=
  s.phase = .IDLE ∧ s.sh.pos = .READING ∧ s.sh.recvd = none ∧ s.ins.count = 0 ∧ s.outs.count = 0
    ∧ s.usb.pending = Pending.empty ∧ s.usb.events = Events.empty ∧ s.usb.epIn = .Free ∧ s.host.tx = []

/-- The observation of a run (R540): `BUS.trace` and `HOST.rx`. -/
def State.observation (s : State) : List BusEvent × List (List Byte) := (s.trace, s.host.rx)

/-- `HOST.rx` flattened (R540). -/
def State.hostText (s : State) : List Byte := s.host.rx.flatten

/-- A weakly fair execution in which the host keeps reading (R478, R540, R541): a step that stays enabled is taken in the
end, the host's two packet steps and the bus-error handler among them. Noise and stall are liberties, and a step that need
never come is none of these. -/
def WeaklyFair (c : Nat → Choice) (r : Nat → State) : Prop :=
  ∀ m ∈ .isrI2cEr :: quiescentMoves, ∀ k, ∃ j, k ≤ j ∧ ((c j).move = m ∨ (r j).enabled m = false)

/-- The host makes finitely many control requests: one without end would keep a POLL from draining. That R540 means so is
the model's reading (log 32). -/
def ControlsEnd (c : Nat → Choice) : Prop := ∃ k, ∀ j, k ≤ j → (c j).move ≠ .hostCtrl

/-- What the Shell's loop makes of the rest of an input, `cur` being what its line holds (R371-R373): the complete lines, each
the text that a terminator ends where it is not empty, and what no terminator ends. A byte that is not printable is dropped, and
so is one that comes when `cap` bytes are held. -/
def assemble (cap : Nat) (cur : List Byte) : List Byte → List (List Byte) × List Byte
  | [] => ([], cur)
  | b :: rest =>
    if isTerminator b then
      (let r := assemble cap [] rest
       if cur = [] then r else (cur :: r.1, r.2))
    else if isPrintable b && cur.length < cap then assemble cap (cur ++ [b]) rest
    else assemble cap cur rest

/-- The complete lines of an input, in order (R371, R540). -/
def completeLines (cap : Nat) (input : List Byte) : List (List Byte) := (assemble cap [] input).1

/-- The last bytes of an input that no terminator ends: they stay in `SH.line` (R540). -/
def unterminated (cap : Nat) (input : List Byte) : List Byte := (assemble cap [] input).2

/-- The reply to a line (R168, R383-R388, R391) in the state `u` that its dispatch or its engine call leaves: `ERROR` where a
check fails; `OK` to a `PING`; where the line made its engine request, `ERROR` if that returned `ok = 0`, and else `OK` to a
write, and to a read `DATA` with the bytes of the read buffer. -/
def lineReply (u : State) (i : Instr) : List Byte :=
  if lineChecks u.cfg i then
    (match i with
      | .ping _ => Text.ok
      | .read _ nn _ => if u.eng.ok then Text.data (u.mem.readN u.cfg.rbuf (nn.getD 0)) else Text.error
      | .write _ _ _ _ => if u.eng.ok then Text.ok else Text.error
      | .writeRead _ _ _ n2 _ => if u.eng.ok then Text.data (u.mem.readN u.cfg.rbuf (n2.getD 0)) else Text.error
      | .writeWrite _ _ _ _ _ _ => if u.eng.ok then Text.ok else Text.error
      | _ => Text.error)
  else Text.error

/-- The step from `s` to `u` ends the dispatch of `line` with the reply `text`: the Shell begins to send that text, and it is
the line's reply (R374, R389). -/
abbrev RepliesAt (s u : State) (line text : List Byte) : Prop :=
  s.sh.pos = .DISPATCH ∧ s.sh.line.text = line ∧ u.sh.pos = .REPLYING ∧ u.sh.sendRest = text
    ∧ text = lineReply u (decodeLine u.cfg line)

/-- From `k` on, a run replies to these lines in order, one text to each: the n-th text to the n-th line. -/
def RepliesInOrder (r : Nat → State) : Nat → List (List Byte) → List (List Byte) → Prop
  | _, [], [] => True
  | k, line :: lines, text :: texts =>
    ∃ j, k ≤ j ∧ RepliesAt (r j) (r (j + 1)) line text ∧ RepliesInOrder r (j + 1) lines texts
  | _, _, _ => False

/-- What R540 says of a run from launch: every weakly fair execution in which the host keeps reading reaches a quiescent state.
There the host has the replies to the complete lines of its input, the n-th reply that to the n-th line, and no other byte; the
bytes that no terminator ended are in `SH.line`. (A definition of what the rule says, for claims about runs; no statement of
this row rests on it, log 32.) -/
def RunsEnd : Prop :=
  ∀ (c : Nat → Choice) (r : Nat → State), CleanEntry (r 0) → Execution c r → WeaklyFair c r → ControlsEnd c →
    ∃ k texts, Quiescent (r k) = true ∧ AtRest (r k) ∧
      RepliesInOrder r 0 (completeLines (r 0).cfg.lineCap (r 0).host.tx.flatten) texts ∧
      (r k).hostText = texts.flatten ∧
      (r k).sh.line.text = unterminated (r 0).cfg.lineCap (r 0).host.tx.flatten

end Sys2Proof.Machine
end

