-- ==== Sys2Proof/Certificates/Slice0/Obligations.lean ====
section
/-!
DEFINITION. The statements for the provers. Each docstring names the rules of spec/ it formalises; OBLIGATIONS.json lists them.
-/

open Sys2Proof Sys2Proof.Machine

/-! ## Encodings -/

/-- Decoding an encoded well-formed instruction gives it back, in each of the three encodings and for every choice of the
parameters, PTR_BITS among them (R163-R166, R171, R174, R175). The layout of a request record is the model's (log 9), that of
an address byte is PRESUMED by the spec itself (log 23). -/
def Obligations.DecodeAfterEncode : Prop :=
  ∀ (p : Params) (i : Instr), i.WellFormed p → decode p i.form (encode p i) = .ok i

/-- R381: decoding what was encoded, at every length; encoding what was decoded, for every text of hex digits of even length. -/
def Obligations.HexRoundTrip : Prop :=
  (∀ b : List Byte, hexDecode (hexEncode b) b.length = some b) ∧
  (∀ t : List Byte, t.length % 2 = 0 → (∀ c ∈ t, hexDigit c ≠ none) →
    ∃ b, hexDecode t (t.length / 2) = some b ∧ hexEncode b = t)

/-- The 16 lowercase hex digits (R167). -/
def IsHexChar (c : Byte) : Prop := (0x30 ≤ c.toNat ∧ c.toNat ≤ 0x39) ∨ (0x61 ≤ c.toNat ∧ c.toNat ≤ 0x66)

/-- The digit value `h` of R376, on a hex digit. -/
def hexVal (c : Byte) : Nat := if c.toNat ≤ 0x39 then c.toNat - 0x30 else c.toNat - 0x61 + 10

/-- R167, R376, R377: `h` is defined exactly on the 16 lowercase hex digits. `hexdecode(t, n)` fails exactly on a wrong length
or a character that is none of them; otherwise it returns n bytes, the k-th of which is 16 h(t[2k]) + h(t[2k+1]). -/
def Obligations.HexDecodeFailsExactly : Prop :=
  (∀ c : Byte, (IsHexChar c → hexDigit c = some (hexVal c)) ∧ (¬ IsHexChar c → hexDigit c = none)) ∧
  ∀ (t : List Byte) (n : Nat),
    (hexDecode t n = none ↔ (t.length ≠ 2 * n ∨ ∃ c ∈ t, ¬ IsHexChar c)) ∧
    (∀ b, hexDecode t n = some b → b.length = n ∧
      ∀ k < n, (b.getD k 0).toNat = 16 * hexVal (t.getD (2 * k) 0) + hexVal (t.getD (2 * k + 1) 0))

/-- R379: `decdecode(t)` succeeds exactly on one or more decimal digits (exactly two under digits_2), with the number they
spell, most significant first. -/
def Obligations.DecimalTokenValue : Prop :=
  ∀ (m : LenToken) (t : List Byte) (v : Nat),
    decDecode m t = some v ↔
      (t ≠ [] ∧ (∀ c ∈ t, 0x30 ≤ c.toNat ∧ c.toNat ≤ 0x39) ∧ (m = .digits2 → t.length = 2) ∧
        v = ((List.range t.length).map (fun j => ((t.getD j 0).toNat - 0x30) * 10 ^ (t.length - 1 - j))).sum)

/-- R380: `addrdecode(t)`: two lowercase hex digits of value v; 0x80 and above fails under reject and loses bit 7 under
mask7; the address is not 0. -/
def Obligations.AddressTokenValue : Prop :=
  ∀ (m : AddrHigh) (t : List Byte) (a : Addr7),
    addrDecode m t = some a ↔
      ∃ v : Byte, hexDecode t 1 = some [v] ∧ (v.toNat < 0x80 ∨ m = .mask7) ∧ a.toNat = v.toNat % 128 ∧ a ≠ 0

/-- What the token at an index of a line's arguments decodes to (R375): nothing where it is missing or its decoder fails. -/
def operandAt {α : Type} (args : List (List Byte)) (k : Nat) (f : List Byte → Option α) : Option α :=
  if h : k < args.length then f (args[k]) else none

/-- The data at an index, of the length at the index before it (R375, R377). -/
def dataAt (p : Params) (args : List (List Byte)) (k : Nat) : Option (List Byte) :=
  operandAt args k (fun t => (operandAt args (k - 1) (decDecode p.lenToken)).bind (hexDecode t))

/-- R162: under `single` the tokens, joined by one space, are the line, and no token holds a space; under `collapse` the
tokens are the non-empty ones of those, in order. R163, R375: token 0 selects the command, letter for letter; each argument is
what the token at its index decodes to, nothing where the token is missing or malformed, and tokens after the last argument
are marked as extra, whatever the parameters. A line without tokens, or with another token 0, is the illegal line. (The
operand `none` for a missing or malformed token is the model's form, log 22.) -/
def Obligations.TokensSplitAtSpaces : Prop :=
  (∀ line : List Byte,
    [0x20].intercalate (tokens .single line) = line ∧ (∀ t ∈ tokens .single line, ∀ c ∈ t, c ≠ 0x20) ∧
    tokens .collapse line = (tokens .single line).filter (fun t => t.length ≠ 0)) ∧
  ∀ (p : Params) (line : List Byte) (kw : List Byte) (args : List (List Byte)),
    (tokens p.tokenize line = [] → decodeLine p line = .unrecognized []) ∧
    (tokens p.tokenize line = kw :: args →
      (kw = [0x50, 0x49, 0x4E, 0x47] → decodeLine p line = .ping (decide (0 < args.length))) ∧
      (kw = [0x52, 0x45, 0x41, 0x44] → decodeLine p line
        = .read (operandAt args 0 (addrDecode p.addrHigh)) (operandAt args 1 (decDecode p.lenToken))
            (decide (2 < args.length))) ∧
      (kw = [0x57, 0x52, 0x49, 0x54, 0x45] → decodeLine p line
        = .write (operandAt args 0 (addrDecode p.addrHigh)) (operandAt args 1 (decDecode p.lenToken)) (dataAt p args 2)
            (decide (3 < args.length))) ∧
      (kw = [0x57, 0x52, 0x49, 0x54, 0x45, 0x5F, 0x52, 0x45, 0x41, 0x44] → decodeLine p line
        = .writeRead (operandAt args 0 (addrDecode p.addrHigh)) (operandAt args 1 (decDecode p.lenToken))
            (dataAt p args 2) (operandAt args 3 (decDecode p.lenToken)) (decide (4 < args.length))) ∧
      (kw = [0x57, 0x52, 0x49, 0x54, 0x45, 0x5F, 0x57, 0x52, 0x49, 0x54, 0x45] → decodeLine p line
        = .writeWrite (operandAt args 0 (addrDecode p.addrHigh)) (operandAt args 1 (decDecode p.lenToken))
            (dataAt p args 2) (operandAt args 3 (decDecode p.lenToken)) (dataAt p args 4)
            (decide (5 < args.length))) ∧
      (kw ∉ [[0x50, 0x49, 0x4E, 0x47], [0x52, 0x45, 0x41, 0x44], [0x57, 0x52, 0x49, 0x54, 0x45],
          [0x57, 0x52, 0x49, 0x54, 0x45, 0x5F, 0x52, 0x45, 0x41, 0x44],
          [0x57, 0x52, 0x49, 0x54, 0x45, 0x5F, 0x57, 0x52, 0x49, 0x54, 0x45]] →
        decodeLine p line = .unrecognized kw))

/-- Words written out decode to what they stand for: the lines `PING`, `READ 50 04` and `WRITE 50 02 aabb` from the spec's
encoding (R163); op 6 (R175) as the one-byte record [0x06], whose layout is the model's (log 9); the address bytes 0xA0 and
0xA1, whose layout is PRESUMED by the spec itself (R171, 93 I2, log 23). -/
def Obligations.SpecWordsDecode : Prop :=
  decode Config.params .line [0x50, 0x49, 0x4E, 0x47] = .ok (.ping false) ∧
  decode Config.params .line [0x52, 0x45, 0x41, 0x44, 0x20, 0x35, 0x30, 0x20, 0x30, 0x34]
    = .ok (.read (some 0x50) (some 4) false) ∧
  decode Config.params .line
      [0x57, 0x52, 0x49, 0x54, 0x45, 0x20, 0x35, 0x30, 0x20, 0x30, 0x32, 0x20, 0x61, 0x61, 0x62, 0x62]
    = .ok (.write (some 0x50) (some 2) (some [0xAA, 0xBB]) false) ∧
  decode Config.params .request [0x06] = .ok .softReset ∧
  decode Config.params .wire [0xA0] = .ok (.addrW 0x50) ∧ decode Config.params .wire [0xA1] = .ok (.addrR 0x50)

/-! ## Running an instruction -/

/-- A step runs the instruction its agent is at: the Shell the line to dispatch (R374), the chunk its transfer issues (R260)
and the soft reset its settle issues (R221); an engine client its placed request (R175); the peripheral the address byte the
bus is at (R208). Around exec a step takes up one choice, and takes a client's request out of its place. -/
def Obligations.StepRunsInstruction : Prop :=
  ∀ (s : State) (d : Byte) (rest : List Choice),
    (Turn s .shell d rest → s.phase = .IDLE → s.sh.pos = .DISPATCH →
      step s = exec (decodeLine s.cfg (s.sh.line.bytes.take s.sh.line.len)) (s.chosen .shell d rest)) ∧
    (∀ c, Turn s .shell d rest → s.phase = .CONFIG → s.call = some c →
      step s = exec (c.dueChunk s.cfg) (s.chosen .shell d rest)) ∧
    (Turn s .shell d rest → s.phase = .RST_DIS → step s = exec .softReset (s.chosen .shell d rest)) ∧
    (∀ r, Turn s .client d rest → s.client = some r →
      step s = exec (decodeRequest r) { s.chosen .client d rest with client := none }) ∧
    (∀ a n, Turn s .pAddr d rest → s.i2c.bus = .Addr a .W n → step s = exec (.addrW a) (s.chosen .pAddr d rest)) ∧
    (∀ a n, Turn s .pAddr d rest → s.i2c.bus = .Addr a .R n → step s = exec (.addrR a) (s.chosen .pAddr d rest))

/-! ## Command lines -/

/-- R383: PING replies OK with no engine request; with an extra token, OK under ignore and ERROR under reject. Nothing but
the Shell's position and reply, and the ghost cause of a rejected line, changes. -/
def Obligations.PingReplies : Prop :=
  ∀ (extra : Bool) (s : State),
    (¬ (extra = true ∧ s.cfg.extraTokens = .reject) →
      exec (.ping extra) s
        = .next { s with sh := { s.sh with pos := .REPLYING, sendRest := [0x4F, 0x4B, 0x0D, 0x0A], sendAtB := false } }) ∧
    (extra = true ∧ s.cfg.extraTokens = .reject →
      exec (.ping extra) s
        = .next { s with
            eng := { s.eng with cause := .MALFORMED }
            sh := { s.sh with
              pos := .REPLYING, sendRest := [0x45, 0x52, 0x52, 0x4F, 0x52, 0x0D, 0x0A], sendAtB := false } })

/-- R388: a line with any other token 0, an empty one included, replies ERROR with no engine request: nothing but the
Shell's position and reply and the ghost cause (R442) changes. -/
def Obligations.UnrecognizedRepliesError : Prop :=
  ∀ s : State,
    (∀ line : List Byte, (∀ kw, (tokens s.cfg.tokenize line).head? = some kw → kw ∉ Keyword.all) →
      exec (decodeLine s.cfg line) s
        = .next { s with
            eng := { s.eng with cause := .MALFORMED }
            sh := { s.sh with
              pos := .REPLYING, sendRest := [0x45, 0x52, 0x52, 0x4F, 0x52, 0x0D, 0x0A], sendAtB := false } }) ∧
    (∀ kw : List Byte, exec (.unrecognized kw) s
        = .next { s with
            eng := { s.eng with cause := .MALFORMED }
            sh := { s.sh with
              pos := .REPLYING, sendRest := [0x45, 0x52, 0x52, 0x4F, 0x52, 0x0D, 0x0A], sendAtB := false } })

/-- The bytes of memory a rejected line may have written (log 15): none for a READ, a PING or an unrecognized line, those of
wbuf1 for a WRITE or a WRITE_READ, those of wbuf1 and wbuf2 for a WRITE_WRITE. -/
def rejectedMayWrite (p : Params) (i : Instr) (x : Nat) : Bool :=
  match i with
  | .write _ _ _ _ => p.wbuf1 ≤ x ∧ x < p.wbuf1 + 64
  | .writeRead _ _ _ _ _ => p.wbuf1 ≤ x ∧ x < p.wbuf1 + 64
  | .writeWrite _ _ _ _ _ _ => (p.wbuf1 ≤ x ∧ x < p.wbuf1 + 64) ∨ (p.wbuf2 ≤ x ∧ x < p.wbuf2 + 64)
  | _ => false

/-- R382: a line with a malformed argument or an unrecognized keyword gets ERROR and makes no engine request: engine state,
the trace, the peripheral and the channels are unchanged, and so is all of memory for a READ, a PING or an unrecognized line,
all but wbuf1 for a WRITE or a WRITE_READ, all but wbuf1 and wbuf2 for a WRITE_WRITE. That a rejected line may have written
those buffers is the model's reading (log 15). -/
def Obligations.MalformedLineNeverCallsEngine : Prop :=
  ∀ (i : Instr) (s : State), i.form = .line → lineChecks s.cfg i = false →
    ∃ t, exec i s = .next t ∧
      t = { s with
        mem := t.mem
        eng := { s.eng with cause := .MALFORMED }
        sh := { s.sh with
          pos := .REPLYING, sendRest := [0x45, 0x52, 0x52, 0x4F, 0x52, 0x0D, 0x0A], sendAtB := false } } ∧
      ∀ x, rejectedMayWrite s.cfg i x = false → t.mem.read x = s.mem.read x

/-- R384: a READ whose checks pass makes the one engine request I2C_READ(a, SH.rbuf, n); no byte of memory changes. -/
def Obligations.ReadMakesItsRequest : Prop :=
  ∀ (a : Addr7) (n : Nat) (extra : Bool) (s : State),
    lineChecks s.cfg (.read (some a) (some n) extra) = true → s.cfg.rbuf + n ≤ memTop s.cfg → s.inFlight = false →
    exec (.read (some a) (some n) extra) s
      = .next { s with
          phase := .CONFIG
          eng := { s.eng with total := 0 }
          call := some ⟨a, ⟨.R, s.cfg.rbuf, n, false⟩, 0, none, some (s.cfg.rbuf, n), .data n⟩ }

/-- R385: a WRITE whose checks pass puts its n decoded bytes, in order, at SH.wbuf1 and makes the one engine request
I2C_WRITE(a, SH.wbuf1, n); every other byte of memory is unchanged. -/
def Obligations.WriteMakesItsRequest : Prop :=
  ∀ (a : Addr7) (n : Nat) (d : List Byte) (extra : Bool) (s : State),
    lineChecks s.cfg (.write (some a) (some n) (some d) extra) = true → s.cfg.wbuf1 + n ≤ memTop s.cfg →
    s.inFlight = false →
    ∃ t, exec (.write (some a) (some n) (some d) extra) s = .next t ∧
      t = { s with
        mem := t.mem
        phase := .CONFIG
        eng := { s.eng with total := 0 }
        call := some ⟨a, ⟨.W, s.cfg.wbuf1, n, false⟩, 0, none, none, .ok⟩ } ∧
      t.mem.readN s.cfg.wbuf1 n = d ∧
      ∀ x, (x < s.cfg.wbuf1 ∨ s.cfg.wbuf1 + n ≤ x) → t.mem.read x = s.mem.read x

/-- R386: a WRITE_READ whose checks pass puts its n1 bytes at SH.wbuf1 and makes the one engine request
I2C_WRITE_READ(a, SH.wbuf1, n1, SH.rbuf, n2); every other byte of memory is unchanged. -/
def Obligations.WriteReadMakesItsRequest : Prop :=
  ∀ (a : Addr7) (n1 n2 : Nat) (d : List Byte) (extra : Bool) (s : State),
    lineChecks s.cfg (.writeRead (some a) (some n1) (some d) (some n2) extra) = true →
    s.cfg.wbuf1 + n1 ≤ memTop s.cfg → s.cfg.rbuf + n2 ≤ memTop s.cfg → s.inFlight = false →
    ∃ t, exec (.writeRead (some a) (some n1) (some d) (some n2) extra) s = .next t ∧
      t = { s with
        mem := t.mem
        phase := .CONFIG
        eng := { s.eng with total := 0 }
        call := some ⟨a, ⟨.W, s.cfg.wbuf1, n1, true⟩, 0, some ⟨.R, s.cfg.rbuf, n2, false⟩, some (s.cfg.rbuf, n2),
          .data n2⟩ } ∧
      t.mem.readN s.cfg.wbuf1 n1 = d ∧
      ∀ x, (x < s.cfg.wbuf1 ∨ s.cfg.wbuf1 + n1 ≤ x) → t.mem.read x = s.mem.read x

/-- R387: a WRITE_WRITE whose checks pass puts its bytes at SH.wbuf1 and SH.wbuf2 (which lie apart) and makes the one engine
request I2C_WRITE_WRITE(a, SH.wbuf1, n1, SH.wbuf2, n2); every other byte of memory is unchanged. -/
def Obligations.WriteWriteMakesItsRequest : Prop :=
  ∀ (a : Addr7) (n1 n2 : Nat) (d1 d2 : List Byte) (extra : Bool) (s : State),
    lineChecks s.cfg (.writeWrite (some a) (some n1) (some d1) (some n2) (some d2) extra) = true →
    s.cfg.wbuf1 + n1 ≤ memTop s.cfg → s.cfg.wbuf2 + n2 ≤ memTop s.cfg →
    (s.cfg.wbuf1 + n1 ≤ s.cfg.wbuf2 ∨ s.cfg.wbuf2 + n2 ≤ s.cfg.wbuf1) → s.inFlight = false →
    ∃ t, exec (.writeWrite (some a) (some n1) (some d1) (some n2) (some d2) extra) s = .next t ∧
      t = { s with
        mem := t.mem
        phase := .CONFIG
        eng := { s.eng with total := 0 }
        call := some ⟨a, ⟨.W, s.cfg.wbuf1, n1, true⟩, 0, some ⟨.W, s.cfg.wbuf2, n2, false⟩, none, .ok⟩ } ∧
      t.mem.readN s.cfg.wbuf1 n1 = d1 ∧ t.mem.readN s.cfg.wbuf2 n2 = d2 ∧
      ∀ x, (x < s.cfg.wbuf1 ∨ s.cfg.wbuf1 + n1 ≤ x) → (x < s.cfg.wbuf2 ∨ s.cfg.wbuf2 + n2 ≤ x) →
        t.mem.read x = s.mem.read x

/-- R176 and R382: whatever bytes a line holds, dispatching it while no engine request is in flight answers a next state:
the requests the Shell makes are never refused. -/
def Obligations.EveryLineIsAnswered : Prop :=
  ∀ (s : State) (line : List Byte), ParamsOk s.cfg → s.inFlight = false →
    (decodeLine s.cfg line).form = .line ∧ ∃ t, exec (decodeLine s.cfg line) s = .next t

/-! ## Engine requests -/

/-- R260-R262: a TRANSFER that is not refused begins with nothing transferred; the chunk due is its first, of min(255, len)
bytes at buf, continued unless it is also the last. Nothing else changes. (That a failed read frees the whole buffer, not only
the failed chunk's bytes, is the model's reading of I8, log 17.) -/
def Obligations.TransferBegins : Prop :=
  ∀ (addr : Addr7) (dir : Dir) (buf len : Nat) (cont : Bool) (s : State),
    1 ≤ len → buf + len ≤ memTop s.cfg → s.inFlight = false →
    ∃ c, exec (.transfer addr dir buf len cont) s
        = .next { s with call := some c, phase := .CONFIG, eng := { s.eng with total := 0 } } ∧
      c = ⟨addr, ⟨dir, buf, len, cont⟩, 0, none, (if dir = .R then some (buf, len) else none), .silent⟩ ∧
      c.dueChunk s.cfg = .chunk addr dir buf (min 255 len) (if len ≤ 255 then cont else true)

/-- R265-R268: the four composed calls begin their first transfer: a read with cont = 0, a write with cont = 0, and the
two-phase calls a write with cont = 1 with the second phase, cont = 0, still to come, whatever its length (log 34: a second
length of 0 is no ground to refuse the request, DEDUCED). Nothing else changes. -/
def Obligations.ComposedCallsBegin : Prop :=
  ∀ (addr : Addr7) (buf len buf2 len2 : Nat) (s : State),
    1 ≤ len → buf + len ≤ memTop s.cfg → s.inFlight = false →
    exec (.i2cRead addr buf len) s
      = .next { s with
          phase := .CONFIG, eng := { s.eng with total := 0 }
          call := some ⟨addr, ⟨.R, buf, len, false⟩, 0, none, some (buf, len), .silent⟩ } ∧
    exec (.i2cWrite addr buf len) s
      = .next { s with
          phase := .CONFIG, eng := { s.eng with total := 0 }
          call := some ⟨addr, ⟨.W, buf, len, false⟩, 0, none, none, .silent⟩ } ∧
    (buf2 + len2 ≤ memTop s.cfg →
      exec (.i2cWriteRead addr buf len buf2 len2) s
        = .next { s with
            phase := .CONFIG, eng := { s.eng with total := 0 }
            call := some ⟨addr, ⟨.W, buf, len, true⟩, 0, some ⟨.R, buf2, len2, false⟩, some (buf2, len2), .silent⟩ } ∧
      exec (.i2cWriteWrite addr buf len buf2 len2) s
        = .next { s with
            phase := .CONFIG, eng := { s.eng with total := 0 }
            call := some ⟨addr, ⟨.W, buf, len, true⟩, 0, some ⟨.W, buf2, len2, false⟩, none, .silent⟩ })

/-- R264: a request of length 0, of a buffer past the top of memory, or made while another is in flight, is refused, with
no step. A second phase of length 0 is refused where its turn comes, at its CONFIG (DEDUCED from R264(a) and the pseudocode of
R267 and R268, log 34). The order among the reasons is the model's (log 28). -/
def Obligations.BadRequestsRefused : Prop :=
  ∀ (addr : Addr7) (dir : Dir) (buf len buf2 len2 : Nat) (cont : Bool) (s : State),
    (∀ i ∈ [Instr.transfer addr dir buf len cont, .i2cRead addr buf len, .i2cWrite addr buf len],
      (len = 0 → exec i s = .refused .zeroLength) ∧
      (1 ≤ len → memTop s.cfg < buf + len → exec i s = .refused .bufferWraps) ∧
      (1 ≤ len → buf + len ≤ memTop s.cfg → s.inFlight = true → exec i s = .refused .concurrentCall)) ∧
    (∀ i ∈ [Instr.i2cWriteRead addr buf len buf2 len2, .i2cWriteWrite addr buf len buf2 len2],
      (len = 0 → exec i s = .refused .zeroLength) ∧
      (1 ≤ len → (memTop s.cfg < buf + len ∨ memTop s.cfg < buf2 + len2) → exec i s = .refused .bufferWraps) ∧
      (1 ≤ len → buf + len ≤ memTop s.cfg → buf2 + len2 ≤ memTop s.cfg → s.inFlight = true →
        exec i s = .refused .concurrentCall)) ∧
    (∀ (c : Call) (d : Byte) (rest : List Choice), Turn s .shell d rest → s.phase = .CONFIG → s.call = some c →
      c.cur.len = 0 → step s = .refused .zeroLength)

/-- R175: op 7 is refused in every state, and ops 5 and 6 are refused when they come from outside the engine. -/
def Obligations.ReservedAndInternalOpsRefused : Prop :=
  ∀ (addr : Addr7) (dir : Dir) (buf n : Nat) (cont : Bool) (s : State),
    exec .reserved s = .refused .reservedOp ∧
    (s.now.move = .client →
      exec (.chunk addr dir buf n cont) s = .refused .internalOp ∧ exec .softReset s = .refused .internalOp)

/-- R200, R201: a CHUNK of 1..255 bytes that the engine issues, with no chunk in flight, takes its CONFIG step: TXN, RD_WRN,
SADD and NBYTES are written and the phase is ARM; nothing else changes. (TXN.len of a chunk with no call in flight, which the
spec does not have, is the model's choice, log 36.) -/
def Obligations.ChunkConfigures : Prop :=
  ∀ (addr : Addr7) (dir : Dir) (buf n : Nat) (cont : Bool) (s : State),
    s.now.move ≠ .client → 1 ≤ n → n ≤ 255 → buf + n ≤ memTop s.cfg → (s.phase = .IDLE ∨ s.phase = .CONFIG) →
    exec (.chunk addr dir buf n cont) s
      = .next { s with
          txn := some ⟨addr, dir, buf, (match s.call with | some c => c.cur.len | none => n), BitVec.ofNat 8 n, cont⟩
          i2c := { s.i2c with rdWrn := decide (dir = .R), sadd := addr, nbytes := BitVec.ofNat 8 n }
          phase := .ARM }

/-- R221: a SOFT_RESET that the engine issues takes its RST_DIS step, whatever the bus does: PE is 0 and the phase RST_WAIT;
nothing else changes. -/
def Obligations.SoftResetDisables : Prop :=
  ∀ s : State, s.now.move ≠ .client →
    exec .softReset s = .next { s with i2c := { s.i2c with pe := false }, phase := .RST_WAIT }

/-- R221, R222, R505: the whole soft reset. RST_WAIT holds until the disable has taken effect; after it the peripheral is as
after initialisation, but that SADD, RD_WRN, NBYTES and the data registers keep their values and a stall may outlast it; a
RELEASE is on the trace if the bus was not idle. -/
def Obligations.SoftResetRestoresPeripheral : Prop :=
  ∀ (s : State) (d0 d1 d2 d3 d4 : Byte) (rest : List Choice),
    configRefusal s.cfg = none → s.phase = .RST_DIS → s.i2c.peActive = true →
    s.sched = [⟨.shell, d0⟩, ⟨.shell, d1⟩, ⟨.pDisable, d2⟩, ⟨.shell, d3⟩, ⟨.shell, d4⟩] ++ rest →
    steps 2 s = .next { (s.chosen .shell d1 ([⟨.pDisable, d2⟩, ⟨.shell, d3⟩, ⟨.shell, d4⟩] ++ rest)) with
        i2c := { s.i2c with pe := false }, phase := .RST_WAIT } ∧
    steps 5 s = .next { (s.chosen .shell d4 rest) with
        phase := .REARM
        trace := s.trace ++ (if s.i2c.bus = .Idle then [] else [.RELEASE])
        i2c := { I2cp.reset with
          sadd := s.i2c.sadd, rdWrn := s.i2c.rdWrn, nbytes := s.i2c.nbytes, txdr := s.i2c.txdr, rxdr := s.i2c.rxdr
          stalled := s.i2c.stalled && d2.getLsbD 0 } }

/-! ## The address bytes -/

/-- R208: the address byte goes out where the bus is at it and the peripheral runs unstalled. An ACK opens the data phase; a
NACK ends the transaction with a STOP, NACKF and STOPF set and the bus idle. Nothing else changes. -/
def Obligations.AddressByteAnswered : Prop :=
  ∀ (a : Addr7) (d : Dir) (n : Nat) (s : State),
    s.i2c.bus = .Addr a d n → s.i2c.peActive = true → s.i2c.stalled = false →
    (s.now.draw.getLsbD 0 = false →
      exec (match d with | .W => .addrW a | .R => .addrR a) s
        = .next { s with trace := s.trace ++ [.ADDR a d .ACK], i2c := { s.i2c with bus := .Data a d 0 n } }) ∧
    (s.now.draw.getLsbD 0 = true →
      exec (match d with | .W => .addrW a | .R => .addrR a) s
        = .next { s with
            trace := s.trace ++ [.ADDR a d .NACK] ++ [.STOP]
            i2c := { s.i2c with nackf := true, stopf := true, bus := .Idle } })

/-! ## The sequencer, one step each -/

/-- R202-R205: ARM writes CMAR and CNDTR of the chunk's channel, DRAIN clears the signal, ENDMA enables the channel, START
requests the start condition; each goes on to the next phase and changes nothing else. -/
def Obligations.OpeningSteps : Prop :=
  ∀ (s : State) (t : Txn) (d : Byte) (rest : List Choice), Turn s .shell d rest → s.txn = some t →
    (s.phase = .ARM → t.dir = .W → step s = .next { s.chosen .shell d rest with
      tx := { s.tx with cmar := t.buf, cndtr := t.n }, phase := .DRAIN }) ∧
    (s.phase = .ARM → t.dir = .R → step s = .next { s.chosen .shell d rest with
      rx := { s.rx with cmar := t.buf, cndtr := t.n }, phase := .DRAIN }) ∧
    (s.phase = .DRAIN → step s = .next { s.chosen .shell d rest with sem := false, phase := .ENDMA }) ∧
    (s.phase = .ENDMA → t.dir = .W → step s = .next { s.chosen .shell d rest with
      tx := { s.tx with en := true }, phase := .START }) ∧
    (s.phase = .ENDMA → t.dir = .R → step s = .next { s.chosen .shell d rest with
      rx := { s.rx with en := true }, phase := .START }) ∧
    (s.phase = .START → step s = .next { s.chosen .shell d rest with
      i2c := { s.i2c with start := true }, phase := .WAIT })

/-- The timeout condition of R456. Under stall_only no step is enabled among the listed ones; under any_time there is no
further condition. -/
def TimeoutMayFire (s : State) : Prop :=
  s.phase = .WAIT ∧ s.sem = false ∧
    (s.cfg.timeoutModel = .stallOnly →
      s.hwEnabled .pStart = false ∧ s.hwEnabled .pAddr = false ∧ s.hwEnabled .pWbyte = false ∧
      s.hwEnabled .pRbyte = false ∧ s.hwEnabled .pStop = false ∧ s.hwEnabled .dmaTx = false ∧
      s.hwEnabled .dmaRx = false ∧ s.hwEnabled .isrI2cEv = false ∧ s.hwEnabled .isrDmaTx = false ∧
      s.hwEnabled .isrDmaRx = false)

/-- R206, R456: WAIT ends by taking the signal, or by the timeout where it may fire; otherwise it holds. -/
def Obligations.WaitEndsBySignalOrTimeout : Prop :=
  ∀ (s : State) (d : Byte) (rest : List Choice), s.phase = .WAIT →
    (Turn s .shell d rest → s.sem = true → step s = .next { s.chosen .shell d rest with
      sem := false, eng := { s.eng with timedOut := false }, phase := .EVAL }) ∧
    (Turn s .shell d rest → s.sem = false → step s = .next (s.chosen .shell d rest)) ∧
    (Turn s .timer d rest → TimeoutMayFire s → step s = .next { s.chosen .timer d rest with
      eng := { s.eng with timedOut := true }, phase := .EVAL }) ∧
    (Turn s .timer d rest → ¬ TimeoutMayFire s → step s = .next (s.chosen .timer d rest))

/-- R215, R216, R442: EVAL. The result is TXN.n only if the wait did not time out, NACKF is 0, and the channel has TCIF and
not TEIF; else it is 0. The cause is the first of TIMEOUT, NACK and DMA that applies. A NACKF of 1 is cleared with STOPF,
whether or not the wait timed out. -/
def Obligations.EvaluationOutcome : Prop :=
  ∀ (s : State) (t : Txn) (d : Byte) (rest : List Choice), Turn s .shell d rest → s.phase = .EVAL → s.txn = some t →
    ∃ u, step s = .next u ∧
      u = { s.chosen .shell d rest with eng := u.eng, i2c := u.i2c, phase := .STOPREQ } ∧
      u.eng = { s.eng with res := u.eng.res, cause := u.eng.cause } ∧
      (u.eng.res = t.n ∨ u.eng.res = 0) ∧
      (s.eng.timedOut = false → s.i2c.nackf = false → (s.chan t.dir).tcif = true → (s.chan t.dir).teif = false →
        u.eng.res = t.n ∧ u.eng.cause = .NONE) ∧
      (s.eng.timedOut = true → u.eng.res = 0 ∧ u.eng.cause = .TIMEOUT) ∧
      (s.eng.timedOut = false → s.i2c.nackf = true → u.eng.res = 0 ∧ u.eng.cause = .NACK) ∧
      (s.eng.timedOut = false → s.i2c.nackf = false → ((s.chan t.dir).tcif = false ∨ (s.chan t.dir).teif = true) →
        u.eng.res = 0 ∧ u.eng.cause = .DMA) ∧
      (s.i2c.nackf = true → u.i2c = { s.i2c with nackf := false, stopf := false }) ∧
      (s.i2c.nackf = false → u.i2c = s.i2c)

/-- R217, R218: STOPREQ requests a STOP unless the wait timed out or the chunk continues; DMAOFF disables the channel and
clears its flags, and a result of 0 goes on to the soft reset. -/
def Obligations.SettleSteps : Prop :=
  ∀ (s : State) (t : Txn) (d : Byte) (rest : List Choice), Turn s .shell d rest → s.txn = some t →
    (s.phase = .STOPREQ → s.eng.timedOut = false → t.cont = false → step s = .next { s.chosen .shell d rest with
      i2c := { s.i2c with stop := true }, phase := .DMAOFF }) ∧
    (s.phase = .STOPREQ → (s.eng.timedOut = true ∨ t.cont = true) → step s = .next { s.chosen .shell d rest with
      phase := .DMAOFF }) ∧
    (s.phase = .DMAOFF → t.dir = .W → step s = .next { s.chosen .shell d rest with
      tx := { s.tx with en := false, tcif := false, teif := false }
      phase := if s.eng.res = 0 then .RST_DIS else .REARM }) ∧
    (s.phase = .DMAOFF → t.dir = .R → step s = .next { s.chosen .shell d rest with
      rx := { s.rx with en := false, tcif := false, teif := false }
      phase := if s.eng.res = 0 then .RST_DIS else .REARM })

/-- What the Shell has to send when its engine call returned `ok` (R384-R387, R391): nothing for an engine client's call;
`OK` or `ERROR` for a write; for a read `DATA` with the hex digits of the first n bytes of SH.rbuf, or `ERROR`. -/
def ReplyIs (s u : State) (r : Reply) (ok : Bool) : Prop :=
  match r with
  | .silent => u.sh = s.sh
  | .ok => u.sh = { s.sh with
      pos := .REPLYING, sendAtB := false
      sendRest := if ok then [0x4F, 0x4B, 0x0D, 0x0A] else [0x45, 0x52, 0x52, 0x4F, 0x52, 0x0D, 0x0A] }
  | .data n => u.sh = { s.sh with
      pos := .REPLYING, sendAtB := false
      sendRest := if ok then [0x44, 0x41, 0x54, 0x41, 0x20] ++ hexEncode (s.mem.readN s.cfg.rbuf n) ++ [0x0D, 0x0A]
        else [0x45, 0x52, 0x52, 0x4F, 0x52, 0x0D, 0x0A] }

/-- The bytes that are free after a failed chunk of `s` (I8, log 17): those of a read chunk, and those of the buffer its call
fills. -/
def FreeAfterFailure (s : State) (x : Nat) : Prop :=
  (∃ t, s.txn = some t ∧ t.dir = .R ∧ t.buf ≤ x ∧ x < t.buf + t.n.toNat) ∨
  (∃ c b len, s.call = some c ∧ c.readBuf = some (b, len) ∧ b ≤ x ∧ x < b + len)

/-- R220, R42, R260-R263, R270, R384-R387, R391: REARM re-enables the engine's four sources, discards the chunk's record and
returns the chunk's result to its transfer. A full chunk that is not the last is followed by the next one, at the offset
reached; a full last chunk by the next phase, if there is one; a failed chunk ends the call with ok = 0 and the total so far,
whatever phases were to come; a full last chunk of the last phase ends it with ok = 1. A call that ends has the Shell reply:
ERROR after any failure, OK after a write, DATA after a read. Memory is unchanged after a result that is not 0, and after a
failure outside the read buffers I8 leaves open (log 17). That all this is the one step REARM is the model's form (log 13),
and so is the discarding of the record there (log 18). -/
def Obligations.RearmReturnsToTransfer : Prop :=
  ∀ (s : State) (d : Byte) (rest : List Choice), Turn s .shell d rest → s.phase = .REARM →
    ∃ u, step s = .next u ∧
      u = { s.chosen .shell d rest with
        irqen := ⟨true, true, true, true, s.irqen.usb⟩, txn := none
        phase := u.phase, call := u.call, eng := u.eng, sh := u.sh, mem := u.mem, free := u.free } ∧
      (s.eng.res ≠ 0 → s.call = none → u.mem = s.mem) ∧
      (∀ x, ¬ FreeAfterFailure s x → u.mem.read x = s.mem.read x) ∧
      (s.call = none → u.phase = .IDLE ∧ u.call = none ∧ u.eng = s.eng ∧ u.sh = s.sh) ∧
      ∀ c n, s.call = some c → n = min 255 (c.cur.len - c.off) → c.off < c.cur.len → s.eng.total = c.off →
        (s.eng.res = BitVec.ofNat 8 n → u.mem = s.mem) ∧
        (s.eng.res = BitVec.ofNat 8 n → c.off + n < c.cur.len →
          u.call = some { c with off := c.off + n } ∧ u.phase = .CONFIG ∧
            u.eng = { s.eng with total := c.off + n } ∧ u.sh = s.sh) ∧
        (∀ x, s.eng.res = BitVec.ofNat 8 n → c.off + n = c.cur.len → c.next = some x →
          u.call = some { c with cur := x, off := 0, next := none } ∧ u.phase = .CONFIG ∧
            u.eng = { s.eng with total := 0 } ∧ u.sh = s.sh) ∧
        (s.eng.res = BitVec.ofNat 8 n → c.off + n = c.cur.len → c.next = none →
          u.call = none ∧ u.phase = .IDLE ∧ u.eng = { s.eng with total := c.cur.len, ok := true } ∧
            ReplyIs s u c.reply true) ∧
        (s.eng.res = 0 →
          u.call = none ∧ u.phase = .IDLE ∧ u.eng = { s.eng with total := c.off, ok := false } ∧
            ReplyIs s u c.reply false)

/-- R261, R262: the split is greedy. At offset 255 j the chunk due starts at buf + 255 j, has min(255, len - 255 j) bytes, and
continues unless it is the last, which takes the caller's cont. (That every chunk of a run is at such an offset, and the total
of a failure so a multiple of 255, is part of the engine's invariant, `callOk`.) -/
def Obligations.GreedySplit : Prop :=
  ∀ (p : Params) (c : Call) (j : Nat), c.off = 255 * j → c.off < c.cur.len → c.cur.buf + c.cur.len ≤ memTop p →
    c.dueChunk p = .chunk c.addr c.cur.dir (c.cur.buf + 255 * j) (min 255 (c.cur.len - 255 * j))
      (if c.cur.len - 255 * j ≤ 255 then c.cur.cont else true)

/-! ## The peripheral, the bus and the channels, one step each -/

/-- R207: P-START. -/
def Obligations.StartCondition : Prop :=
  ∀ (s : State) (d : Byte) (rest : List Choice), Turn s .pStart d rest →
    s.i2c.peActive = true → s.i2c.stalled = false → s.i2c.start = true →
    (s.i2c.stop = false → (s.i2c.bus = .Idle ∨ s.i2c.bus = .Held) → step s = .next { s.chosen .pStart d rest with
      trace := s.trace ++ [if s.i2c.bus = .Held then .RSTART else .START]
      i2c := { s.i2c with
        bus := .Addr s.i2c.sadd (if s.i2c.rdWrn = true then .R else .W) s.i2c.nbytes.toNat, start := false } }) ∧
    (s.i2c.stop = true → step s = .next (s.chosen .pStart d rest))

/-- R209: P-WBYTE. -/
def Obligations.WrittenByte : Prop :=
  ∀ (s : State) (a : Addr7) (i n : Nat) (d : Byte) (rest : List Choice), Turn s .pWbyte d rest →
    s.i2c.peActive = true → s.i2c.stalled = false → s.i2c.bus = .Data a .W i n →
    (s.i2c.txe = false → d.getLsbD 0 = true → step s = .next { s.chosen .pWbyte d rest with
      trace := s.trace ++ [.WR s.i2c.txdr .NACK] ++ [.STOP]
      i2c := { s.i2c with txe := true, nackf := true, stopf := true, bus := .Idle } }) ∧
    (s.i2c.txe = false → d.getLsbD 0 = false → step s = .next { s.chosen .pWbyte d rest with
      trace := s.trace ++ [.WR s.i2c.txdr .ACK]
      i2c := { s.i2c with txe := true, bus := if i + 1 = n then .Held else .Data a .W (i + 1) n } }) ∧
    (s.i2c.txe = true → step s = .next (s.chosen .pWbyte d rest))

/-- R210, R173: P-RBYTE; the master acknowledges every byte but the last. -/
def Obligations.ReadByte : Prop :=
  ∀ (s : State) (a : Addr7) (i n : Nat) (d : Byte) (rest : List Choice), Turn s .pRbyte d rest →
    s.i2c.peActive = true → s.i2c.stalled = false → s.i2c.bus = .Data a .R i n →
    (s.i2c.rxne = false → step s = .next { s.chosen .pRbyte d rest with
      trace := s.trace ++ [.RD d (if i + 1 < n then .ACK else .NACK)]
      i2c := { s.i2c with
        rxdr := d, rxne := true, bus := if i + 1 = n then .Held else .Data a .R (i + 1) n } }) ∧
    (s.i2c.rxne = true → step s = .next (s.chosen .pRbyte d rest))

/-- R213: P-STOP. A STOP request on an idle bus is absorbed; at a byte boundary of a transaction a STOP is on the bus; while
a written byte waits in TXDR the request waits. -/
def Obligations.StopCondition : Prop :=
  ∀ (s : State) (d : Byte) (rest : List Choice), Turn s .pStop d rest →
    s.i2c.peActive = true → s.i2c.stalled = false → s.i2c.stop = true →
    (s.i2c.bus = .Idle → step s = .next { s.chosen .pStop d rest with i2c := { s.i2c with stop := false } }) ∧
    ((s.i2c.bus = .Held ∨ (∃ a i n, s.i2c.bus = .Data a .W i n ∧ s.i2c.txe = true) ∨
        (∃ a i n, s.i2c.bus = .Data a .R i n ∧ s.i2c.rxne = true)) →
      step s = .next { s.chosen .pStop d rest with
        trace := s.trace ++ [.STOP], i2c := { s.i2c with stopf := true, bus := .Idle, stop := false } }) ∧
    (∀ a i n, s.i2c.bus = .Data a .W i n → s.i2c.txe = false → step s = .next (s.chosen .pStop d rest))

/-- R211, R62: DMA-TX. That CMAR + 1 is taken modulo 2^PTR_BITS is the model's inference from its width (log 6, DEDUCED). -/
def Obligations.DmaTxMovesOneByte : Prop :=
  ∀ (s : State) (a : Addr7) (i n : Nat) (d : Byte) (rest : List Choice), Turn s .dmaTx d rest →
    s.tx.en = true → s.tx.cndtr ≠ 0 → s.i2c.txe = true → s.i2c.bus = .Data a .W i n → s.tx.cmar < memTop s.cfg →
    (d.getLsbD 0 = true → step s = .next { s.chosen .dmaTx d rest with tx := { s.tx with teif := true, en := false } }) ∧
    (d.getLsbD 0 = false → step s = .next { s.chosen .dmaTx d rest with
      i2c := { s.i2c with txdr := s.mem.read s.tx.cmar, txe := false }
      tx := { s.tx with
        cmar := (s.tx.cmar + 1) % memTop s.cfg, cndtr := s.tx.cndtr - 1
        tcif := if s.tx.cndtr = 1 then true else s.tx.tcif } })

/-- R212, R62: DMA-RX; the byte lands at CMAR and no other byte of memory changes. That CMAR + 1 is taken modulo 2^PTR_BITS is
the model's inference from its width (log 6, DEDUCED). -/
def Obligations.DmaRxMovesOneByte : Prop :=
  ∀ (s : State) (d : Byte) (rest : List Choice), Turn s .dmaRx d rest →
    s.rx.en = true → s.rx.cndtr ≠ 0 → s.i2c.rxne = true → s.rx.cmar < memTop s.cfg →
    (d.getLsbD 0 = true → step s = .next { s.chosen .dmaRx d rest with rx := { s.rx with teif := true, en := false } }) ∧
    (d.getLsbD 0 = false → ∃ u, step s = .next u ∧
      u = { s.chosen .dmaRx d rest with
        mem := u.mem
        i2c := { s.i2c with rxne := false }
        rx := { s.rx with
          cmar := (s.rx.cmar + 1) % memTop s.cfg, cndtr := s.rx.cndtr - 1
          tcif := if s.rx.cndtr = 1 then true else s.rx.tcif } } ∧
      u.mem.read s.rx.cmar = s.i2c.rxdr ∧ ∀ x, x ≠ s.rx.cmar → u.mem.read x = s.mem.read x)

/-! ## Interrupts -/

/-- R446-R449: each handler, where its source is pending. EV, DTX and DRX disable their own source and give; ER clears BERR,
gives nothing and keeps its source enabled; USB disables its source and posts POLL. Nothing else changes (R457). -/
def Obligations.HandlerEffects : Prop :=
  ∀ (s : State) (d : Byte) (rest : List Choice),
    (Turn s .isrI2cEv d rest → s.i2c.nackf = true → s.irqen.ev = true → step s = .next { s.chosen .isrI2cEv d rest with
      irqen := { s.irqen with ev := false }, sem := true }) ∧
    (Turn s .isrI2cEr d rest → s.i2c.berr = true → s.irqen.er = true → step s = .next { s.chosen .isrI2cEr d rest with
      i2c := { s.i2c with berr := false } }) ∧
    (Turn s .isrDmaTx d rest → (s.tx.tcif = true ∨ s.tx.teif = true) → s.irqen.dtx = true →
      step s = .next { s.chosen .isrDmaTx d rest with irqen := { s.irqen with dtx := false }, sem := true }) ∧
    (Turn s .isrDmaRx d rest → (s.rx.tcif = true ∨ s.rx.teif = true) → s.irqen.drx = true →
      step s = .next { s.chosen .isrDmaRx d rest with irqen := { s.irqen with drx := false }, sem := true }) ∧
    (Turn s .isrUsb d rest → (s.usb.events.outRx = true ∨ s.usb.events.inDone = true ∨ s.usb.events.ctrl = true) →
      s.irqen.usb = true → step s = .next { s.chosen .isrUsb d rest with
        irqen := { s.irqen with usb := false }
        usb := { s.usb with pending := { s.usb.pending with poll := true } } })

/-- The five handlers. -/
def handlerMoves : List Move := [.isrI2cEv, .isrI2cEr, .isrDmaTx, .isrDmaRx, .isrUsb]

/-- R452: two handlers that are both pending may run in either order with the same result, but for the record of the last
choice taken up; neither takes the other's pending away: after either one the other is still enabled. -/
def Obligations.HandlersCommute : Prop :=
  ∀ (m₁ m₂ : Move) (d₁ d₂ : Byte) (s : State), m₁ ∈ handlerMoves → m₂ ∈ handlerMoves → m₁ ≠ m₂ →
    configRefusal s.cfg = none → s.enabled m₁ = true → s.enabled m₂ = true →
    (∃ w, step { s with sched := [⟨m₁, d₁⟩] } = .next w ∧ w.enabled m₂ = true) ∧
    ∃ u v, steps 2 { s with sched := [⟨m₁, d₁⟩, ⟨m₂, d₂⟩] } = .next u ∧
      steps 2 { s with sched := [⟨m₂, d₂⟩, ⟨m₁, d₁⟩] } = .next v ∧ u = { v with now := u.now } ∧
      (m₁ ≠ .isrI2cEr ∧ m₁ ≠ .isrUsb → u.sem = true)

/-! ## The USB transport -/

/-- R300-R302: a stream is first-in first-out. A put that fits appends its bytes; a get gives the oldest bytes and leaves the
rest; the capacity is never passed. -/
def Obligations.StreamIsFifo : Prop :=
  ∀ (cap : Nat) (q : ByteStream), StreamOk cap q →
    (∀ p : List Byte, q.count + p.length ≤ cap →
      StreamOk cap (q.put cap p) ∧ (q.put cap p).contents cap = q.contents cap ++ p) ∧
    (∀ k ≤ q.count, StreamOk cap (q.drop cap k) ∧ q.peek cap k = (q.contents cap).take k ∧
      (q.drop cap k).contents cap = (q.contents cap).drop k)

/-- What R330's pull does to a state `t`, giving `u`: nothing while the IN endpoint is busy; an empty stream queues no packet;
else a packet of min(count, MPS) of the oldest bytes is queued, and `sending` says whether it is full. -/
def PullOutcome (t u : State) : Prop :=
  ((∃ p, t.usb.epIn = .Busy p) → u = t) ∧
  (t.usb.epIn = .Free → t.outs.count = 0 → u = { t with usb := { t.usb with sending := false } }) ∧
  (t.usb.epIn = .Free → 1 ≤ t.outs.count → ∃ p,
    u = { t with outs := u.outs, usb := { t.usb with epIn := .Busy p, sending := decide (t.cfg.mps ≤ t.outs.count) } } ∧
    p.length = min t.outs.count t.cfg.mps ∧ t.outs.contents t.cfg.capOut = p ++ u.outs.contents t.cfg.capOut)

/-- R313, R314, R330, R331: the kick pulls only while nothing is being sent; IN_DONE pulls; CTRL changes nothing but the event
set. Whatever other events wait, some draw of the POLL step handles the IN_DONE, and some the CTRL (R307; that the draw picks
the event is the model's form, log 27). -/
def Obligations.PullQueuesPacket : Prop :=
  ∀ (s : State) (d : Byte) (rest : List Choice), Turn s .usbSvc d rest → TransportOk s →
    (s.usb.taken = ⟨false, false, true⟩ → s.usb.sending = true → step s = .next { s.chosen .usbSvc d rest with
      usb := { s.usb with taken := ⟨false, false, false⟩ } }) ∧
    (s.usb.taken = ⟨false, false, true⟩ → s.usb.sending = false → ∃ u, step s = .next u ∧
      PullOutcome { s.chosen .usbSvc d rest with usb := { s.usb with taken := ⟨false, false, false⟩ } } u) ∧
    (s.usb.taken.poll = true → s.usb.events = ⟨false, true, false⟩ → ∃ u, step s = .next u ∧
      PullOutcome { s.chosen .usbSvc d rest with usb := { s.usb with events := ⟨false, false, false⟩ } } u) ∧
    (s.usb.taken.poll = true → s.usb.events = ⟨false, false, true⟩ → step s = .next { s.chosen .usbSvc d rest with
      usb := { s.usb with events := ⟨false, false, false⟩ } }) ∧
    (s.usb.taken.poll = true → s.usb.events.inDone = true → ∃ d' u,
      step { s with sched := ⟨.usbSvc, d'⟩ :: rest } = .next u ∧
      PullOutcome { s.chosen .usbSvc d' rest with usb := { s.usb with events := { s.usb.events with inDone := false } } } u) ∧
    (s.usb.taken.poll = true → s.usb.events.ctrl = true → ∃ d',
      step { s with sched := ⟨.usbSvc, d'⟩ :: rest } = .next { s.chosen .usbSvc d' rest with
        usb := { s.usb with events := { s.usb.events with ctrl := false } } })

/-- What R309's handling of OUT_RX does to a state `t`, giving `u`: the packet is appended to the inbound stream; the endpoint
is held off with `receiving` 0 where a full packet would no longer fit, else ready again. An event without a packet changes
nothing (the model's choice, log 33). -/
def OutOutcome (t u : State) : Prop :=
  (∀ p, t.usb.epOut = .Full p →
    u = { t with ins := u.ins, usb := { t.usb with epOut := u.usb.epOut, receiving := u.usb.receiving } } ∧
    u.ins.contents t.cfg.capIn = t.ins.contents t.cfg.capIn ++ p ∧
    (t.cfg.capIn - u.ins.count < t.cfg.mps → u.usb.epOut = .Nak ∧ u.usb.receiving = false) ∧
    (t.cfg.mps ≤ t.cfg.capIn - u.ins.count → u.usb.epOut = .Valid ∧ u.usb.receiving = t.usb.receiving)) ∧
  ((∀ p, t.usb.epOut ≠ .Full p) → u = t)

/-- R309, R310: an OUT packet is appended to the inbound stream, and the endpoint is held off with `receiving` 0 where a full
packet would no longer fit, else ready again, whatever other events wait (some draw of the POLL step handles it, log 27); a
recv-resume readies a held-off endpoint once there is room. R300: a packet that would pass the capacity has no step: while its
event is all that waits, the servicing task holds. -/
def Obligations.OutPacketAndResume : Prop :=
  (∀ (s : State) (d : Byte) (rest : List Choice) (p : List Byte), Turn s .usbSvc d rest → s.usb.taken.poll = true →
    s.usb.events = ⟨true, false, false⟩ → s.usb.epOut = .Full p → s.cfg.capIn < s.ins.count + p.length →
    step s = .next (s.chosen .usbSvc d rest)) ∧
  ∀ (s : State) (d : Byte) (rest : List Choice), Turn s .usbSvc d rest → TransportOk s →
    (s.usb.taken.poll = true → s.usb.events = ⟨true, false, false⟩ → ∃ u, step s = .next u ∧
      OutOutcome { s.chosen .usbSvc d rest with usb := { s.usb with events := ⟨false, false, false⟩ } } u) ∧
    (s.usb.taken.poll = true → s.usb.events.outRx = true → ∃ d' u,
      step { s with sched := ⟨.usbSvc, d'⟩ :: rest } = .next u ∧
      OutOutcome { s.chosen .usbSvc d' rest with usb := { s.usb with events := { s.usb.events with outRx := false } } } u) ∧
    (s.usb.taken.poll = false → s.usb.taken.recvResume = true →
      (s.usb.receiving = false → s.cfg.mps ≤ s.cfg.capIn - s.ins.count → step s = .next { s.chosen .usbSvc d rest with
        usb := { s.usb with
          taken := { s.usb.taken with recvResume := false }, epOut := .Valid, receiving := true } }) ∧
      ((s.usb.receiving = true ∨ s.cfg.capIn - s.ins.count < s.cfg.mps) → step s = .next { s.chosen .usbSvc d rest with
        usb := { s.usb with taken := { s.usb.taken with recvResume := false } } }))

/-- The event is in the set. -/
def Waits (e : Events) : UsbEvent → Prop
  | .outRx => e.outRx = true
  | .inDone => e.inDone = true
  | .ctrl => e.ctrl = true

/-- The set without the event (R307). -/
def eventsWithout (e : Events) : UsbEvent → Events
  | .outRx => ⟨false, e.inDone, e.ctrl⟩
  | .inDone => ⟨e.outRx, false, e.ctrl⟩
  | .ctrl => ⟨e.outRx, e.inDone, false⟩

/-- What handling an event does (R309, R313, R314). -/
def EventOutcome (x : UsbEvent) (t u : State) : Prop :=
  match x with
  | .outRx => OutOutcome t u
  | .inDone => PullOutcome t u
  | .ctrl => u = t

/-- R306, R307, R308, R312, R541: take-all takes every pending flag; a POLL that finds no event re-enables the USB interrupt in
the same step; a POLL that finds any handles one of those waiting, by its own rule, and removes only that one; the host hands
over its head packet while the endpoint is ready, and takes the queued packet; its control request adds CTRL and does nothing
else. (Which event a draw picks is log 27; that a control request is always possible is log 20.) -/
def Obligations.UsbRoundAndHostMoves : Prop :=
  ∀ (s : State) (d : Byte) (rest : List Choice),
    (Turn s .usbSvc d rest → s.usb.taken = ⟨false, false, false⟩ → s.usb.pending ≠ ⟨false, false, false⟩ →
      step s = .next { s.chosen .usbSvc d rest with
        usb := { s.usb with taken := s.usb.pending, pending := ⟨false, false, false⟩ } }) ∧
    (Turn s .usbSvc d rest → s.usb.taken.poll = true → s.usb.events = ⟨false, false, false⟩ →
      step s = .next { s.chosen .usbSvc d rest with
        usb := { s.usb with taken := { s.usb.taken with poll := false } }, irqen := { s.irqen with usb := true } }) ∧
    (∀ p ps, Turn s .hostOut d rest → s.host.tx = p :: ps → p.length ≤ s.cfg.mps →
      (s.usb.epOut = .Valid → step s = .next { s.chosen .hostOut d rest with
        host := { s.host with tx := ps }
        usb := { s.usb with epOut := .Full p, events := { s.usb.events with outRx := true } } }) ∧
      (s.usb.epOut ≠ .Valid → step s = .next (s.chosen .hostOut d rest))) ∧
    (∀ p, Turn s .hostIn d rest → s.usb.epIn = .Busy p → step s = .next { s.chosen .hostIn d rest with
      host := { s.host with rx := s.host.rx ++ [p] }
      usb := { s.usb with epIn := .Free, events := { s.usb.events with inDone := true } } }) ∧
    (Turn s .usbSvc d rest → TransportOk s → s.usb.taken.poll = true → s.usb.events ≠ ⟨false, false, false⟩ →
      ∃ x u, Waits s.usb.events x ∧ step s = .next u ∧
        EventOutcome x { s.chosen .usbSvc d rest with usb := { s.usb with events := eventsWithout s.usb.events x } } u) ∧
    (Turn s .hostCtrl d rest → step s = .next { s.chosen .hostCtrl d rest with
      usb := { s.usb with events := { s.usb.events with ctrl := true } } })

/-! ## The Shell's loop -/

/-- R303, R371-R373: recv's first step holds while INS is empty, and otherwise takes its oldest byte, that one only. Then the
byte is handled: a terminator begins the dispatch of a nonempty line and is ignored after an empty one; a printable byte is
kept where there is room and dropped where there is none; any other byte is dropped. RECV_RESUME is posted exactly while the
OUT endpoint is held off. (That the handling is one step with recv's second is the model's form, log 16, DEDUCED.) -/
def Obligations.LineAssembly : Prop :=
  (∀ (s : State) (d : Byte) (rest : List Choice), Turn s .shell d rest → s.phase = .IDLE → s.sh.pos = .READING →
    s.sh.recvd = none →
    (s.ins.count = 0 → step s = .next (s.chosen .shell d rest)) ∧
    (1 ≤ s.ins.count → ∃ u b, step s = .next u ∧
      u = { s.chosen .shell d rest with ins := u.ins, sh := { s.sh with recvd := some b } } ∧
      s.ins.contents s.cfg.capIn = b :: u.ins.contents s.cfg.capIn ∧ u.ins.count + 1 = s.ins.count)) ∧
  ∀ (s : State) (c d : Byte) (rest : List Choice), Turn s .shell d rest → s.phase = .IDLE → s.sh.pos = .READING →
    s.sh.recvd = some c →
    ∃ u, step s = .next u ∧
      u = { s.chosen .shell d rest with sh := u.sh, usb := u.usb } ∧
      u.sh = { s.sh with recvd := none, line := u.sh.line, pos := u.sh.pos } ∧
      u.usb = { s.usb with pending := { s.usb.pending with
        recvResume := s.usb.pending.recvResume || !s.usb.receiving } } ∧
      ((c = 0x0D ∨ c = 0x0A) → u.sh.line = s.sh.line ∧ (0 < s.sh.line.len → u.sh.pos = .DISPATCH) ∧
        (s.sh.line.len = 0 → u.sh.pos = .READING)) ∧
      (¬ (c = 0x0D ∨ c = 0x0A) → u.sh.pos = .READING) ∧
      (0x20 ≤ c.toNat → c.toNat ≤ 0x7E → s.sh.line.len < s.cfg.lineCap →
        u.sh.line = ⟨s.sh.line.bytes.set s.sh.line.len c, s.sh.line.len + 1⟩) ∧
      (0x20 ≤ c.toNat → c.toNat ≤ 0x7E → s.cfg.lineCap ≤ s.sh.line.len → u.sh.line = s.sh.line) ∧
      ((c.toNat < 0x20 ∨ 0x7E < c.toNat) → u.sh.line = s.sh.line)

/-- R304, R371, R374: send. Step A holds while the stream is full and otherwise puts as many bytes as fit; step B posts
SEND_RESUME while nothing is being sent, and after the last byte the Shell reads again with an empty line. (That this end of
the dispatch is in the last step B is the model's form, log 16, DEDUCED from R371 and R374.) -/
def Obligations.SendSteps : Prop :=
  ∀ (s : State) (d : Byte) (rest : List Choice), Turn s .shell d rest → TransportOk s → s.phase = .IDLE →
    s.sh.pos = .REPLYING →
    (s.sh.sendAtB = false → s.outs.count = s.cfg.capOut → step s = .next (s.chosen .shell d rest)) ∧
    (s.sh.sendAtB = false → s.outs.count < s.cfg.capOut → ∃ u k, step s = .next u ∧
      k = min s.sh.sendRest.length (s.cfg.capOut - s.outs.count) ∧
      u = { s.chosen .shell d rest with
        outs := u.outs, sh := { s.sh with sendRest := s.sh.sendRest.drop k, sendAtB := true } } ∧
      u.outs.contents s.cfg.capOut = s.outs.contents s.cfg.capOut ++ s.sh.sendRest.take k) ∧
    (s.sh.sendAtB = true → ∃ u, step s = .next u ∧
      u = { s.chosen .shell d rest with sh := u.sh, usb := u.usb } ∧
      u.usb = { s.usb with pending := { s.usb.pending with
        sendResume := s.usb.pending.sendResume || !s.usb.sending } } ∧
      (s.sh.sendRest ≠ [] → u.sh = { s.sh with sendAtB := false }) ∧
      (s.sh.sendRest = [] → u.sh = { s.sh with
        sendAtB := false, pos := .READING, line := { s.sh.line with len := 0 } }))

/-! ## Rules of the whole machine -/

/-- Reset (R501, R503): the values the spec gives. (The others, 0 here, and the parameters are the model's choice, logs 4, 7,
8, 11: this statement says nothing of them.) -/
def Obligations.ResetValues : Prop :=
  State.reset.phase = .IDLE ∧ State.reset.txn = none ∧ State.reset.sem = false ∧
  State.reset.irqen = ⟨true, true, true, true, true⟩ ∧
  State.reset.i2c.pe = true ∧ State.reset.i2c.peActive = true ∧ State.reset.i2c.start = false ∧
  State.reset.i2c.stop = false ∧ State.reset.i2c.nackf = false ∧ State.reset.i2c.stopf = false ∧
  State.reset.i2c.berr = false ∧ State.reset.i2c.txe = true ∧ State.reset.i2c.rxne = false ∧
  State.reset.i2c.bus = .Idle ∧ State.reset.i2c.stalled = false ∧ State.reset.trace = [] ∧
  State.reset.tx.en = false ∧ State.reset.rx.en = false ∧ State.reset.tx.tcif = false ∧ State.reset.tx.teif = false ∧
  State.reset.rx.tcif = false ∧ State.reset.rx.teif = false ∧
  State.reset.ins.wr = 0 ∧ State.reset.ins.rd = 0 ∧ State.reset.ins.count = 0 ∧
  State.reset.outs.wr = 0 ∧ State.reset.outs.rd = 0 ∧ State.reset.outs.count = 0 ∧
  State.reset.usb.receiving = true ∧ State.reset.usb.sending = false ∧
  State.reset.usb.pending = ⟨false, false, false⟩ ∧ State.reset.usb.epOut = .Valid ∧ State.reset.usb.epIn = .Free ∧
  State.reset.usb.events = ⟨false, false, false⟩ ∧
  State.reset.sh.line.len = 0 ∧ State.reset.sh.pos = .READING ∧ State.reset.host.rx = []

/-- R501, R504: the reset state is a clean entry, and every clean entry meets the invariants below, with any input, any
parameters and any values of the fields R501 leaves unspecified. (The parameters of the reset state are the model's choice,
log 4, and so are the values of its buffers, log 7, and that MPS is 1 or more in a clean entry, log 35.) -/
def Obligations.ResetMeetsInvariants : Prop :=
  CleanEntry State.reset ∧
  ∀ s : State, CleanEntry s → s.mem.wf = true ∧ TransportOk s ∧ FlowOk s ∧ EngineOk s ∧ EngineIdle s ∧ LineOk s

/-- Every step keeps the memory in its one canonical form, so that equal memories are equal data (R120, R126). -/
def Obligations.MemoryStaysCanonical : Prop :=
  ∀ s s' : State, s.mem.wf = true → step s = .next s' → s'.mem.wf = true

/-- R64, R311: every step keeps both streams within their capacity with `wr = (rd + count) mod cap`, room for one full packet
whenever `receiving` is 1, the OUT endpoint held off exactly when it is 0, and packets of legal size. R332, R449, R478, R518:
and it keeps what is owed wherever an agent waits for another (`FlowOk`), so that no byte waits for ever. -/
def Obligations.TransportInvariantKept : Prop :=
  ∀ s s' : State, TransportOk s → step s = .next s' → TransportOk s' ∧ (FlowOk s → FlowOk s')

/-- R42, R202, R218, R219, R221, R229, R261, R274, R514: every step keeps the engine's invariant: a chunk's record exists exactly
from its CONFIG to its REARM and is that of the chunk due, its result is 0 or TXN.n, a soft reset runs only after a result of
0, a channel is enabled only between ENDMA and DMAOFF of its own chunk, the peripheral is disabled only inside a soft reset, a
chunk starts at a multiple of 255, and the total is the offset reached. R382: where no client's request is placed, it keeps it
too that the call has no phase of length 0. (That the record is discarded at REARM is log 18.) -/
def Obligations.EngineInvariantKept : Prop :=
  ∀ s s' : State, EngineOk s → step s = .next s' → EngineOk s' ∧ (s.client = none → NoEmptyPhase s → NoEmptyPhase s')

/-- R440, R443: no rule stops the machine. In every state that meets the engine's invariant, with an admitted configuration,
no client's request placed and no phase of length 0 in the call (log 34), the step answers a next state, whichever agent moves
and whatever it draws; so from every clean entry every sequence of choices has an execution. R478, R540: a state that meets the invariants and in which no step of
R540's list is enabled is one at rest: the Shell reading with INS and OUTS empty, no flag pending, no event waiting, the IN
endpoint free, the engine idle, the input consumed. No other hold can last. -/
def Obligations.NoStepIsRefused : Prop :=
  (∀ s : State, EngineOk s → NoEmptyPhase s → s.client = none → ∃ s', step s = .next s') ∧
  (∀ (s : State) (c : Nat → Choice), CleanEntry s → ∃ r, r 0 = s ∧ Execution c r) ∧
  (∀ s : State, EngineOk s → TransportOk s → FlowOk s → Quiescent s = true → AtRest s)

/-- R59: the bus trace is only appended to. R10: no step writes the parameters. R71: every step keeps the line buffer within
LINE_CAP. -/
def Obligations.TraceGrowsParametersFixed : Prop :=
  ∀ s s' : State, step s = .next s' →
    (∃ es, s'.trace = s.trace ++ es) ∧ s'.cfg = s.cfg ∧ (LineOk s → LineOk s')

/-- The enabling conditions: as the rules give them R207-R213, R222-R224 of the peripheral and the channels, R444-R449 of the
handlers, R308, R312 of the host's packets, R456 of the timeout, R300, R305-R307 of the servicing task, R202-R221, R303, R304,
R370 of the Shell. Four are in part the model's: CONFIG waits for a call (R201 names no such condition: without one the model
has no chunk due); hostOut asks that the packet has at most MPS bytes (log 26); hostCtrl is always enabled (log 20); client is
the model's port for R175's engine client (log 12). -/
def MayMove (s : State) : Move → Prop
  | .shell =>
    (match s.phase with
      | .IDLE =>
        (match s.sh.pos with
          | .READING => s.sh.recvd ≠ none ∨ 1 ≤ s.ins.count
          | .DISPATCH => True
          | .REPLYING => s.sh.sendAtB = true ∨ s.outs.count < s.cfg.capOut)
      | .CONFIG => s.call ≠ none
      | .WAIT => s.sem = true
      | .RST_WAIT => s.i2c.peActive = false
      | _ => True)
  | .timer => TimeoutMayFire s
  | .usbSvc =>
    if s.usb.taken.poll = true then
      s.usb.events = ⟨false, false, false⟩ ∨ s.usb.events.inDone = true ∨ s.usb.events.ctrl = true ∨
        (s.usb.events.outRx = true ∧ ∀ p, s.usb.epOut = .Full p → s.ins.count + p.length ≤ s.cfg.capIn)
    else s.usb.taken ≠ ⟨false, false, false⟩ ∨ s.usb.pending ≠ ⟨false, false, false⟩
  | .isrI2cEv => s.i2c.nackf = true ∧ s.irqen.ev = true
  | .isrI2cEr => s.i2c.berr = true ∧ s.irqen.er = true
  | .isrDmaTx => (s.tx.tcif = true ∨ s.tx.teif = true) ∧ s.irqen.dtx = true
  | .isrDmaRx => (s.rx.tcif = true ∨ s.rx.teif = true) ∧ s.irqen.drx = true
  | .isrUsb => s.usb.events ≠ ⟨false, false, false⟩ ∧ s.irqen.usb = true
  | .pStart => s.i2c.start = true ∧ s.i2c.stop = false ∧ s.i2c.peActive = true ∧ s.i2c.stalled = false ∧
      (s.i2c.bus = .Idle ∨ s.i2c.bus = .Held)
  | .pAddr => (∃ a d n, s.i2c.bus = .Addr a d n) ∧ s.i2c.peActive = true ∧ s.i2c.stalled = false
  | .pWbyte => (∃ a i n, s.i2c.bus = .Data a .W i n) ∧ s.i2c.txe = false ∧ s.i2c.peActive = true ∧ s.i2c.stalled = false
  | .pRbyte => (∃ a i n, s.i2c.bus = .Data a .R i n) ∧ s.i2c.rxne = false ∧ s.i2c.peActive = true ∧ s.i2c.stalled = false
  | .pStop => s.i2c.stop = true ∧ s.i2c.peActive = true ∧ s.i2c.stalled = false ∧
      (s.i2c.bus = .Idle ∨ s.i2c.bus = .Held ∨ (∃ a i n, s.i2c.bus = .Data a .W i n ∧ s.i2c.txe = true) ∨
        (∃ a i n, s.i2c.bus = .Data a .R i n ∧ s.i2c.rxne = true))
  | .pDisable => s.i2c.pe = false ∧ s.i2c.peActive = true
  | .pNoise => s.i2c.peActive = true
  | .pStall => s.i2c.peActive = true ∧ s.i2c.stalled = false
  | .dmaTx => s.tx.en = true ∧ s.tx.cndtr ≠ 0 ∧ s.i2c.txe = true ∧ (∃ a i n, s.i2c.bus = .Data a .W i n)
  | .dmaRx => s.rx.en = true ∧ s.rx.cndtr ≠ 0 ∧ s.i2c.rxne = true
  | .hostOut => s.usb.epOut = .Valid ∧ ∃ p ps, s.host.tx = p :: ps ∧ p.length ≤ s.cfg.mps
  | .hostIn => ∃ p, s.usb.epIn = .Busy p
  | .hostCtrl => True
  | .client => s.client ≠ none

/-- R17, R445 and the first line of every step rule: a step is enabled exactly under its condition, and an agent whose step is
not enabled holds: nothing changes. The conditions are the rules' but for the four parts `MayMove` names (logs 12, 20, 26, and
CONFIG's call), and that a step of a holding agent is a step of the machine at all, taking up its choice only, is the model's
form (log 3). -/
def Obligations.EnabledExactlyWhereRulesSay : Prop :=
  ∀ (s : State) (m : Move) (d : Byte) (rest : List Choice),
    (s.enabled m = true ↔ MayMove s m) ∧
    (Turn s m d rest → ¬ MayMove s m → step s = .next (s.chosen m d rest))

/-- R223, R224: the two disturbances. Noise sets BERR, in any bus state; a stall sets `stalled`. Nothing else changes. -/
def Obligations.DisturbanceSteps : Prop :=
  ∀ (s : State) (d : Byte) (rest : List Choice), s.i2c.peActive = true →
    (Turn s .pNoise d rest → step s = .next { s.chosen .pNoise d rest with i2c := { s.i2c with berr := true } }) ∧
    (Turn s .pStall d rest → s.i2c.stalled = false →
      step s = .next { s.chosen .pStall d rest with i2c := { s.i2c with stalled := true } })

/-- The steps of the peripheral and the bus. -/
def peripheralMoves : List Move := [.pStart, .pAddr, .pWbyte, .pRbyte, .pStop, .pDisable, .pNoise, .pStall]

/-- R473, row by row: the Shell's fields, TXN, the engine's registers and call, and the phase are written by the Shell's steps
only (its own, the timeout that ends its wait, or an engine client's request); the streams, the flow flags and the pending
flags by their owners; an interrupt enable is cleared by its own handler only (ER's by none, R447) and set by the Shell only,
USB's by the servicing task only; the peripheral by the Shell, its own steps, the channels' and the bus-error handler, its
control fields by the Shell only; a channel by the Shell and its own steps only. R59, R68-R73: the trace by the peripheral's
steps only, the endpoints and the events by the servicing task and the host, what the host holds by its own two steps. -/
def Obligations.OnlyOwnersWrite : Prop :=
  ∀ (s s' : State) (m : Move) (d : Byte) (rest : List Choice), s.sched = ⟨m, d⟩ :: rest → step s = .next s' →
    (m ∉ [Move.shell, .timer, .client] →
      s'.sh = s.sh ∧ s'.txn = s.txn ∧ s'.eng = s.eng ∧ s'.call = s.call ∧ s'.phase = s.phase) ∧
    (m ∉ [Move.shell, .usbSvc] → s'.ins = s.ins ∧ s'.outs = s.outs) ∧
    (m ≠ .usbSvc → s'.usb.receiving = s.usb.receiving ∧ s'.usb.sending = s.usb.sending) ∧
    (m ∉ [Move.shell, .usbSvc, .isrUsb] → s'.usb.pending = s.usb.pending) ∧
    (m ∉ [Move.shell, .dmaRx] → s'.mem = s.mem) ∧
    (s.irqen.ev = true → s'.irqen.ev = false → m = .isrI2cEv) ∧ (s.irqen.ev = false → s'.irqen.ev = true → m = .shell) ∧
    (s.irqen.er = true → s'.irqen.er = true) ∧ (s.irqen.er = false → s'.irqen.er = true → m = .shell) ∧
    (s.irqen.dtx = true → s'.irqen.dtx = false → m = .isrDmaTx) ∧
    (s.irqen.dtx = false → s'.irqen.dtx = true → m = .shell) ∧
    (s.irqen.drx = true → s'.irqen.drx = false → m = .isrDmaRx) ∧
    (s.irqen.drx = false → s'.irqen.drx = true → m = .shell) ∧
    (s.irqen.usb = true → s'.irqen.usb = false → m = .isrUsb) ∧
    (s.irqen.usb = false → s'.irqen.usb = true → m = .usbSvc) ∧
    (m ∉ [Move.shell, .dmaTx, .dmaRx, .isrI2cEr] ++ peripheralMoves → s'.i2c = s.i2c) ∧
    (m ≠ .shell → s'.i2c.sadd = s.i2c.sadd ∧ s'.i2c.rdWrn = s.i2c.rdWrn ∧ s'.i2c.nbytes = s.i2c.nbytes ∧
      s'.i2c.pe = s.i2c.pe) ∧
    (m ∉ [Move.shell, .dmaTx] → s'.tx = s.tx) ∧ (m ∉ [Move.shell, .dmaRx] → s'.rx = s.rx) ∧
    (m ∉ peripheralMoves → s'.trace = s.trace) ∧
    (m ∉ [Move.usbSvc, .hostOut] → s'.usb.epOut = s.usb.epOut) ∧ (m ∉ [Move.usbSvc, .hostIn] → s'.usb.epIn = s.usb.epIn) ∧
    (m ∉ [Move.usbSvc, .hostOut, .hostIn, .hostCtrl] → s'.usb.events = s.usb.events) ∧
    (m ≠ .usbSvc → s'.usb.taken = s.usb.taken) ∧
    (m ≠ .hostOut → s'.host.tx = s.host.tx) ∧ (m ≠ .hostIn → s'.host.rx = s.host.rx)

/-- R44, R453-R455: the completion signal is cleared only by DRAIN or by the take of WAIT, both the Shell's, and set only by
the handlers EV, DTX and DRX. -/
def Obligations.SignalSetAndCleared : Prop :=
  ∀ (s s' : State) (m : Move) (d : Byte) (rest : List Choice), s.sched = ⟨m, d⟩ :: rest → step s = .next s' →
    (s.sem = true → s'.sem = false → m = .shell ∧ (s.phase = .DRAIN ∨ s.phase = .WAIT)) ∧
    (s.sem = false → s'.sem = true → m = .isrI2cEv ∨ m = .isrDmaTx ∨ m = .isrDmaRx)

/-- The state with BERR at 0. -/
def noBerr (s : State) : State := { s with i2c := { s.i2c with berr := false } }

/-- R225: BERR never changes a result. Two states that differ only in BERR take steps that differ at most in BERR, whichever
agent moves and whatever it draws: both stop for the same reason, or both go on alike. -/
def Obligations.BusErrorChangesNothing : Prop :=
  ∀ (s : State) (b : Bool),
    match step s, step { s with i2c := { s.i2c with berr := b } } with
    | .next u, .next v => noBerr u = noBerr v
    | .refused r, .refused r' => r = r'
    | _, _ => False

/-! ## Whole chunks and commands -/

/-- The engine at rest, with no chunk, stale flag or request left over, its sources enabled, its channels off, the peripheral
running and the bus idle or held. -/
abbrev EngineClean (s : State) : Prop :=
  configRefusal s.cfg = none ∧ s.phase = .IDLE ∧ s.call = none ∧
    s.i2c.pe = true ∧ s.i2c.peActive = true ∧ s.i2c.stalled = false ∧ s.i2c.start = false ∧ s.i2c.stop = false ∧
    s.i2c.nackf = false ∧ s.i2c.txe = true ∧ s.i2c.rxne = false ∧ (s.i2c.bus = .Idle ∨ s.i2c.bus = .Held) ∧
    s.tx = { s.tx with en := false, tcif := false, teif := false } ∧
    s.rx = { s.rx with en := false, tcif := false, teif := false } ∧
    s.irqen.ev = true ∧ s.irqen.dtx = true ∧ s.irqen.drx = true

/-- The choices of the steps from ARM to the address byte, acknowledged. -/
def openingChoices : List Choice :=
  [⟨.shell, 0⟩, ⟨.shell, 0⟩, ⟨.shell, 0⟩, ⟨.shell, 0⟩, ⟨.pStart, 0⟩, ⟨.pAddr, 0⟩]

/-- The choices of the steps from WAIT to the STOP. -/
def closingChoices : List Choice :=
  [⟨.shell, 0⟩, ⟨.shell, 0⟩, ⟨.shell, 0⟩, ⟨.shell, 0⟩, ⟨.shell, 0⟩, ⟨.pStop, 0⟩]

/-- A write chunk of `n` bytes, every byte acknowledged, the wait ended by DMA-TX's interrupt after the last byte. -/
def writeChoices (n : Nat) : List Choice :=
  openingChoices ++ (List.replicate n [⟨.dmaTx, 0⟩, ⟨.pWbyte, 0⟩]).flatten ++ [⟨.isrDmaTx, 0⟩] ++ closingChoices

/-- A read chunk of the bytes `bs`. -/
def readChoices (bs : List Byte) : List Choice :=
  openingChoices ++ (bs.map (fun b => [⟨.pRbyte, b⟩, ⟨.dmaRx, 0⟩])).flatten ++ [⟨.isrDmaRx, 0⟩] ++ closingChoices

/-- The events of a read chunk's data (R230). -/
def readEvents : List Byte → List BusEvent
  | [] => []
  | [b] => [.RD b .NACK]
  | b :: bs => .RD b .ACK :: readEvents bs

/-- The start event of a chunk: repeated on a held bus (R207). -/
def startEvent (s : State) : BusEvent := if s.i2c.bus = .Held then .RSTART else .START

/-- R230: a write chunk to a target that acknowledges everything. From an engine at rest, CHUNK of n bytes, outside any
transfer (no call in flight), runs along one fixed schedule to the end: the trace gains S, ADDR(a,W,ACK), the n bytes of the
buffer in order, and a STOP unless the chunk continues, in which case the bus is held; the result is n, the record is
discarded, and memory is unchanged. -/
def Obligations.WriteChunkCompletes : Prop :=
  ∀ (s : State) (a : Addr7) (buf n : Nat) (cont : Bool), EngineClean s → s.now.move ≠ .client → 1 ≤ n → n ≤ 255 →
    buf + n ≤ memTop s.cfg →
    ∃ s1 t, exec (.chunk a .W buf n cont) s = .next s1 ∧
      steps (writeChoices n).length { s1 with sched := writeChoices n } = .next t ∧
      t.trace = s.trace ++ [startEvent s, .ADDR a .W .ACK] ++ (s.mem.readN buf n).map (fun b => .WR b .ACK)
        ++ (if cont then [] else [.STOP]) ∧
      t.i2c.bus = (if cont then .Held else .Idle) ∧ t.eng.res = BitVec.ofNat 8 n ∧ t.eng.cause = .NONE ∧
      t.phase = .IDLE ∧ t.txn = none ∧ t.sem = false ∧ t.tx.en = false ∧ t.tx.tcif = false ∧
      t.irqen = ⟨true, true, true, true, s.irqen.usb⟩ ∧ t.mem = s.mem

/-- R230: a read chunk. From an engine at rest, CHUNK of n = |bs| bytes, outside any transfer (no call in flight), from a
target that acknowledges its address and sends bs runs along one fixed schedule to the end: the trace gains S, ADDR(a,R,ACK), the bytes with the last one NACKed by the master, and a STOP unless the
chunk continues; the result is n, the buffer holds bs, and every other byte of memory is unchanged. -/
def Obligations.ReadChunkCompletes : Prop :=
  ∀ (s : State) (a : Addr7) (buf : Nat) (bs : List Byte) (cont : Bool), EngineClean s → s.now.move ≠ .client →
    1 ≤ bs.length → bs.length ≤ 255 → buf + bs.length ≤ memTop s.cfg →
    ∃ s1 t, exec (.chunk a .R buf bs.length cont) s = .next s1 ∧
      steps (readChoices bs).length { s1 with sched := readChoices bs } = .next t ∧
      t.trace = s.trace ++ [startEvent s, .ADDR a .R .ACK] ++ readEvents bs ++ (if cont then [] else [.STOP]) ∧
      t.i2c.bus = (if cont then .Held else .Idle) ∧ t.eng.res = BitVec.ofNat 8 bs.length ∧ t.eng.cause = .NONE ∧
      t.phase = .IDLE ∧ t.txn = none ∧ t.sem = false ∧ t.rx.en = false ∧ t.rx.tcif = false ∧
      t.mem.readN buf bs.length = bs ∧
      ∀ x, (x < buf ∨ buf + bs.length ≤ x) → t.mem.read x = s.mem.read x

/-- R384, R265, R389: a whole READ. From an engine at rest, READ a n of a target that acknowledges its address and sends bs,
n = |bs|, along one fixed schedule, ends with the Shell about to send `DATA `, the hex digits of bs, CR LF; the trace is that of the read with a STOP,
the call has returned ok = 1 and the total n. -/
def Obligations.ReadCommandReplies : Prop :=
  ∀ (s : State) (a : Addr7) (bs : List Byte) (d : Byte), EngineClean s → ParamsOk s.cfg → a ≠ 0 →
    1 ≤ bs.length → bs.length ≤ 64 →
    ∃ s1 t, exec (.read (some a) (some bs.length) false) s = .next s1 ∧
      steps (1 + (readChoices bs).length) { s1 with sched := ⟨.shell, d⟩ :: readChoices bs } = .next t ∧
      t.trace = s.trace ++ [startEvent s, .ADDR a .R .ACK] ++ readEvents bs ++ [.STOP] ∧
      t.sh.pos = .REPLYING ∧ t.sh.sendAtB = false ∧
      t.sh.sendRest = [0x44, 0x41, 0x54, 0x41, 0x20] ++ hexEncode bs ++ [0x0D, 0x0A] ∧
      t.eng.ok = true ∧ t.eng.total = bs.length ∧ t.call = none ∧ t.phase = .IDLE ∧ t.i2c.bus = .Idle ∧
      t.outs = s.outs ∧ t.usb = s.usb

/-- The choices of a chunk whose address is not acknowledged: to the NACK, the EV handler, the settle with the soft reset. -/
def nackChoices : List Choice :=
  [⟨.shell, 0⟩, ⟨.shell, 0⟩, ⟨.shell, 0⟩, ⟨.shell, 0⟩, ⟨.pStart, 0⟩, ⟨.pAddr, 1⟩, ⟨.isrI2cEv, 0⟩,
   ⟨.shell, 0⟩, ⟨.shell, 0⟩, ⟨.shell, 0⟩, ⟨.shell, 0⟩, ⟨.shell, 0⟩, ⟨.pDisable, 0⟩, ⟨.shell, 0⟩, ⟨.shell, 0⟩, ⟨.shell, 0⟩]

/-- R230, R219: a chunk whose address is not acknowledged, of either direction. The trace gains S, ADDR(a,d,NACK), STOP and,
through the soft reset, no further event; the result is 0 with cause NACK; the peripheral's flags are 0 and it is enabled; its
channel is off. -/
def Obligations.AddressNackFailsChunk : Prop :=
  ∀ (s : State) (a : Addr7) (dir : Dir) (buf n : Nat) (cont : Bool), EngineClean s → s.now.move ≠ .client →
    1 ≤ n → n ≤ 255 → buf + n ≤ memTop s.cfg →
    ∃ s1 t, exec (.chunk a dir buf n cont) s = .next s1 ∧
      steps nackChoices.length { s1 with sched := nackChoices } = .next t ∧
      t.trace = s.trace ++ [startEvent s, .ADDR a dir .NACK, .STOP] ∧
      t.eng.res = 0 ∧ t.eng.cause = .NACK ∧ t.phase = .IDLE ∧ t.i2c.bus = .Idle ∧ t.i2c.pe = true ∧
      t.i2c.peActive = true ∧ t.i2c.nackf = false ∧ t.i2c.stopf = false ∧ t.i2c.stop = false ∧ t.i2c.berr = false ∧
      t.tx.en = false ∧ t.rx.en = false
end

