-- ==== Sys2Proof/Laws/State.lean ====
section
/-!
SUPPORT. What each named update does to each field of State, so that no proof unfolds one: true by unfolding, for simp.
-/

namespace Sys2Proof.Machine

/-! ## `emit` -/

@[simp] theorem State.emit_cfg (s : State) (e : BusEvent) : (s.emit e).cfg = s.cfg := rfl
@[simp] theorem State.emit_phase (s : State) (e : BusEvent) : (s.emit e).phase = s.phase := rfl
@[simp] theorem State.emit_txn (s : State) (e : BusEvent) : (s.emit e).txn = s.txn := rfl
@[simp] theorem State.emit_eng (s : State) (e : BusEvent) : (s.emit e).eng = s.eng := rfl
@[simp] theorem State.emit_call (s : State) (e : BusEvent) : (s.emit e).call = s.call := rfl
@[simp] theorem State.emit_sem (s : State) (e : BusEvent) : (s.emit e).sem = s.sem := rfl
@[simp] theorem State.emit_irqen (s : State) (e : BusEvent) : (s.emit e).irqen = s.irqen := rfl
@[simp] theorem State.emit_i2c (s : State) (e : BusEvent) : (s.emit e).i2c = s.i2c := rfl
@[simp] theorem State.emit_trace (s : State) (e : BusEvent) : (s.emit e).trace = s.trace ++ [e] := rfl
@[simp] theorem State.emit_tx (s : State) (e : BusEvent) : (s.emit e).tx = s.tx := rfl
@[simp] theorem State.emit_rx (s : State) (e : BusEvent) : (s.emit e).rx = s.rx := rfl
@[simp] theorem State.emit_ins (s : State) (e : BusEvent) : (s.emit e).ins = s.ins := rfl
@[simp] theorem State.emit_outs (s : State) (e : BusEvent) : (s.emit e).outs = s.outs := rfl
@[simp] theorem State.emit_usb (s : State) (e : BusEvent) : (s.emit e).usb = s.usb := rfl
@[simp] theorem State.emit_sh (s : State) (e : BusEvent) : (s.emit e).sh = s.sh := rfl
@[simp] theorem State.emit_host (s : State) (e : BusEvent) : (s.emit e).host = s.host := rfl
@[simp] theorem State.emit_mem (s : State) (e : BusEvent) : (s.emit e).mem = s.mem := rfl
@[simp] theorem State.emit_client (s : State) (e : BusEvent) : (s.emit e).client = s.client := rfl
@[simp] theorem State.emit_sched (s : State) (e : BusEvent) : (s.emit e).sched = s.sched := rfl
@[simp] theorem State.emit_now (s : State) (e : BusEvent) : (s.emit e).now = s.now := rfl
@[simp] theorem State.emit_tick (s : State) (e : BusEvent) : (s.emit e).tick = s.tick := rfl
@[simp] theorem State.emit_free (s : State) (e : BusEvent) : (s.emit e).free = s.free := rfl

/-! ## `setPhase` -/

@[simp] theorem State.setPhase_cfg (s : State) (p : Phase) : (s.setPhase p).cfg = s.cfg := rfl
@[simp] theorem State.setPhase_phase (s : State) (p : Phase) : (s.setPhase p).phase = p := rfl
@[simp] theorem State.setPhase_txn (s : State) (p : Phase) : (s.setPhase p).txn = s.txn := rfl
@[simp] theorem State.setPhase_eng (s : State) (p : Phase) : (s.setPhase p).eng = s.eng := rfl
@[simp] theorem State.setPhase_call (s : State) (p : Phase) : (s.setPhase p).call = s.call := rfl
@[simp] theorem State.setPhase_sem (s : State) (p : Phase) : (s.setPhase p).sem = s.sem := rfl
@[simp] theorem State.setPhase_irqen (s : State) (p : Phase) : (s.setPhase p).irqen = s.irqen := rfl
@[simp] theorem State.setPhase_i2c (s : State) (p : Phase) : (s.setPhase p).i2c = s.i2c := rfl
@[simp] theorem State.setPhase_trace (s : State) (p : Phase) : (s.setPhase p).trace = s.trace := rfl
@[simp] theorem State.setPhase_tx (s : State) (p : Phase) : (s.setPhase p).tx = s.tx := rfl
@[simp] theorem State.setPhase_rx (s : State) (p : Phase) : (s.setPhase p).rx = s.rx := rfl
@[simp] theorem State.setPhase_ins (s : State) (p : Phase) : (s.setPhase p).ins = s.ins := rfl
@[simp] theorem State.setPhase_outs (s : State) (p : Phase) : (s.setPhase p).outs = s.outs := rfl
@[simp] theorem State.setPhase_usb (s : State) (p : Phase) : (s.setPhase p).usb = s.usb := rfl
@[simp] theorem State.setPhase_sh (s : State) (p : Phase) : (s.setPhase p).sh = s.sh := rfl
@[simp] theorem State.setPhase_host (s : State) (p : Phase) : (s.setPhase p).host = s.host := rfl
@[simp] theorem State.setPhase_mem (s : State) (p : Phase) : (s.setPhase p).mem = s.mem := rfl
@[simp] theorem State.setPhase_client (s : State) (p : Phase) : (s.setPhase p).client = s.client := rfl
@[simp] theorem State.setPhase_sched (s : State) (p : Phase) : (s.setPhase p).sched = s.sched := rfl
@[simp] theorem State.setPhase_now (s : State) (p : Phase) : (s.setPhase p).now = s.now := rfl
@[simp] theorem State.setPhase_tick (s : State) (p : Phase) : (s.setPhase p).tick = s.tick := rfl
@[simp] theorem State.setPhase_free (s : State) (p : Phase) : (s.setPhase p).free = s.free := rfl

/-! ## `post` -/

@[simp] theorem State.post_cfg (s : State) (f : Pending) : (s.post f).cfg = s.cfg := rfl
@[simp] theorem State.post_phase (s : State) (f : Pending) : (s.post f).phase = s.phase := rfl
@[simp] theorem State.post_txn (s : State) (f : Pending) : (s.post f).txn = s.txn := rfl
@[simp] theorem State.post_eng (s : State) (f : Pending) : (s.post f).eng = s.eng := rfl
@[simp] theorem State.post_call (s : State) (f : Pending) : (s.post f).call = s.call := rfl
@[simp] theorem State.post_sem (s : State) (f : Pending) : (s.post f).sem = s.sem := rfl
@[simp] theorem State.post_irqen (s : State) (f : Pending) : (s.post f).irqen = s.irqen := rfl
@[simp] theorem State.post_i2c (s : State) (f : Pending) : (s.post f).i2c = s.i2c := rfl
@[simp] theorem State.post_trace (s : State) (f : Pending) : (s.post f).trace = s.trace := rfl
@[simp] theorem State.post_tx (s : State) (f : Pending) : (s.post f).tx = s.tx := rfl
@[simp] theorem State.post_rx (s : State) (f : Pending) : (s.post f).rx = s.rx := rfl
@[simp] theorem State.post_ins (s : State) (f : Pending) : (s.post f).ins = s.ins := rfl
@[simp] theorem State.post_outs (s : State) (f : Pending) : (s.post f).outs = s.outs := rfl
@[simp] theorem State.post_usb (s : State) (f : Pending) : (s.post f).usb = { s.usb with pending := s.usb.pending.union f } := rfl
@[simp] theorem State.post_sh (s : State) (f : Pending) : (s.post f).sh = s.sh := rfl
@[simp] theorem State.post_host (s : State) (f : Pending) : (s.post f).host = s.host := rfl
@[simp] theorem State.post_mem (s : State) (f : Pending) : (s.post f).mem = s.mem := rfl
@[simp] theorem State.post_client (s : State) (f : Pending) : (s.post f).client = s.client := rfl
@[simp] theorem State.post_sched (s : State) (f : Pending) : (s.post f).sched = s.sched := rfl
@[simp] theorem State.post_now (s : State) (f : Pending) : (s.post f).now = s.now := rfl
@[simp] theorem State.post_tick (s : State) (f : Pending) : (s.post f).tick = s.tick := rfl
@[simp] theorem State.post_free (s : State) (f : Pending) : (s.post f).free = s.free := rfl

/-! ## `give` -/

@[simp] theorem State.give_cfg (s : State) : (s.give).cfg = s.cfg := rfl
@[simp] theorem State.give_phase (s : State) : (s.give).phase = s.phase := rfl
@[simp] theorem State.give_txn (s : State) : (s.give).txn = s.txn := rfl
@[simp] theorem State.give_eng (s : State) : (s.give).eng = s.eng := rfl
@[simp] theorem State.give_call (s : State) : (s.give).call = s.call := rfl
@[simp] theorem State.give_sem (s : State) : (s.give).sem = true := rfl
@[simp] theorem State.give_irqen (s : State) : (s.give).irqen = s.irqen := rfl
@[simp] theorem State.give_i2c (s : State) : (s.give).i2c = s.i2c := rfl
@[simp] theorem State.give_trace (s : State) : (s.give).trace = s.trace := rfl
@[simp] theorem State.give_tx (s : State) : (s.give).tx = s.tx := rfl
@[simp] theorem State.give_rx (s : State) : (s.give).rx = s.rx := rfl
@[simp] theorem State.give_ins (s : State) : (s.give).ins = s.ins := rfl
@[simp] theorem State.give_outs (s : State) : (s.give).outs = s.outs := rfl
@[simp] theorem State.give_usb (s : State) : (s.give).usb = s.usb := rfl
@[simp] theorem State.give_sh (s : State) : (s.give).sh = s.sh := rfl
@[simp] theorem State.give_host (s : State) : (s.give).host = s.host := rfl
@[simp] theorem State.give_mem (s : State) : (s.give).mem = s.mem := rfl
@[simp] theorem State.give_client (s : State) : (s.give).client = s.client := rfl
@[simp] theorem State.give_sched (s : State) : (s.give).sched = s.sched := rfl
@[simp] theorem State.give_now (s : State) : (s.give).now = s.now := rfl
@[simp] theorem State.give_tick (s : State) : (s.give).tick = s.tick := rfl
@[simp] theorem State.give_free (s : State) : (s.give).free = s.free := rfl

/-! ## `clearSem` -/

@[simp] theorem State.clearSem_cfg (s : State) : (s.clearSem).cfg = s.cfg := rfl
@[simp] theorem State.clearSem_phase (s : State) : (s.clearSem).phase = s.phase := rfl
@[simp] theorem State.clearSem_txn (s : State) : (s.clearSem).txn = s.txn := rfl
@[simp] theorem State.clearSem_eng (s : State) : (s.clearSem).eng = s.eng := rfl
@[simp] theorem State.clearSem_call (s : State) : (s.clearSem).call = s.call := rfl
@[simp] theorem State.clearSem_sem (s : State) : (s.clearSem).sem = false := rfl
@[simp] theorem State.clearSem_irqen (s : State) : (s.clearSem).irqen = s.irqen := rfl
@[simp] theorem State.clearSem_i2c (s : State) : (s.clearSem).i2c = s.i2c := rfl
@[simp] theorem State.clearSem_trace (s : State) : (s.clearSem).trace = s.trace := rfl
@[simp] theorem State.clearSem_tx (s : State) : (s.clearSem).tx = s.tx := rfl
@[simp] theorem State.clearSem_rx (s : State) : (s.clearSem).rx = s.rx := rfl
@[simp] theorem State.clearSem_ins (s : State) : (s.clearSem).ins = s.ins := rfl
@[simp] theorem State.clearSem_outs (s : State) : (s.clearSem).outs = s.outs := rfl
@[simp] theorem State.clearSem_usb (s : State) : (s.clearSem).usb = s.usb := rfl
@[simp] theorem State.clearSem_sh (s : State) : (s.clearSem).sh = s.sh := rfl
@[simp] theorem State.clearSem_host (s : State) : (s.clearSem).host = s.host := rfl
@[simp] theorem State.clearSem_mem (s : State) : (s.clearSem).mem = s.mem := rfl
@[simp] theorem State.clearSem_client (s : State) : (s.clearSem).client = s.client := rfl
@[simp] theorem State.clearSem_sched (s : State) : (s.clearSem).sched = s.sched := rfl
@[simp] theorem State.clearSem_now (s : State) : (s.clearSem).now = s.now := rfl
@[simp] theorem State.clearSem_tick (s : State) : (s.clearSem).tick = s.tick := rfl
@[simp] theorem State.clearSem_free (s : State) : (s.clearSem).free = s.free := rfl

/-! ## `discardTxn` -/

@[simp] theorem State.discardTxn_cfg (s : State) : (s.discardTxn).cfg = s.cfg := rfl
@[simp] theorem State.discardTxn_phase (s : State) : (s.discardTxn).phase = s.phase := rfl
@[simp] theorem State.discardTxn_txn (s : State) : (s.discardTxn).txn = none := rfl
@[simp] theorem State.discardTxn_eng (s : State) : (s.discardTxn).eng = s.eng := rfl
@[simp] theorem State.discardTxn_call (s : State) : (s.discardTxn).call = s.call := rfl
@[simp] theorem State.discardTxn_sem (s : State) : (s.discardTxn).sem = s.sem := rfl
@[simp] theorem State.discardTxn_irqen (s : State) : (s.discardTxn).irqen = s.irqen := rfl
@[simp] theorem State.discardTxn_i2c (s : State) : (s.discardTxn).i2c = s.i2c := rfl
@[simp] theorem State.discardTxn_trace (s : State) : (s.discardTxn).trace = s.trace := rfl
@[simp] theorem State.discardTxn_tx (s : State) : (s.discardTxn).tx = s.tx := rfl
@[simp] theorem State.discardTxn_rx (s : State) : (s.discardTxn).rx = s.rx := rfl
@[simp] theorem State.discardTxn_ins (s : State) : (s.discardTxn).ins = s.ins := rfl
@[simp] theorem State.discardTxn_outs (s : State) : (s.discardTxn).outs = s.outs := rfl
@[simp] theorem State.discardTxn_usb (s : State) : (s.discardTxn).usb = s.usb := rfl
@[simp] theorem State.discardTxn_sh (s : State) : (s.discardTxn).sh = s.sh := rfl
@[simp] theorem State.discardTxn_host (s : State) : (s.discardTxn).host = s.host := rfl
@[simp] theorem State.discardTxn_mem (s : State) : (s.discardTxn).mem = s.mem := rfl
@[simp] theorem State.discardTxn_client (s : State) : (s.discardTxn).client = s.client := rfl
@[simp] theorem State.discardTxn_sched (s : State) : (s.discardTxn).sched = s.sched := rfl
@[simp] theorem State.discardTxn_now (s : State) : (s.discardTxn).now = s.now := rfl
@[simp] theorem State.discardTxn_tick (s : State) : (s.discardTxn).tick = s.tick := rfl
@[simp] theorem State.discardTxn_free (s : State) : (s.discardTxn).free = s.free := rfl

/-! ## `setIrqen` -/

@[simp] theorem State.setIrqen_cfg (s : State) (src : Source) (v : Bool) : (s.setIrqen src v).cfg = s.cfg := rfl
@[simp] theorem State.setIrqen_phase (s : State) (src : Source) (v : Bool) : (s.setIrqen src v).phase = s.phase := rfl
@[simp] theorem State.setIrqen_txn (s : State) (src : Source) (v : Bool) : (s.setIrqen src v).txn = s.txn := rfl
@[simp] theorem State.setIrqen_eng (s : State) (src : Source) (v : Bool) : (s.setIrqen src v).eng = s.eng := rfl
@[simp] theorem State.setIrqen_call (s : State) (src : Source) (v : Bool) : (s.setIrqen src v).call = s.call := rfl
@[simp] theorem State.setIrqen_sem (s : State) (src : Source) (v : Bool) : (s.setIrqen src v).sem = s.sem := rfl
@[simp] theorem State.setIrqen_irqen (s : State) (src : Source) (v : Bool) : (s.setIrqen src v).irqen = s.irqen.set src v := rfl
@[simp] theorem State.setIrqen_i2c (s : State) (src : Source) (v : Bool) : (s.setIrqen src v).i2c = s.i2c := rfl
@[simp] theorem State.setIrqen_trace (s : State) (src : Source) (v : Bool) : (s.setIrqen src v).trace = s.trace := rfl
@[simp] theorem State.setIrqen_tx (s : State) (src : Source) (v : Bool) : (s.setIrqen src v).tx = s.tx := rfl
@[simp] theorem State.setIrqen_rx (s : State) (src : Source) (v : Bool) : (s.setIrqen src v).rx = s.rx := rfl
@[simp] theorem State.setIrqen_ins (s : State) (src : Source) (v : Bool) : (s.setIrqen src v).ins = s.ins := rfl
@[simp] theorem State.setIrqen_outs (s : State) (src : Source) (v : Bool) : (s.setIrqen src v).outs = s.outs := rfl
@[simp] theorem State.setIrqen_usb (s : State) (src : Source) (v : Bool) : (s.setIrqen src v).usb = s.usb := rfl
@[simp] theorem State.setIrqen_sh (s : State) (src : Source) (v : Bool) : (s.setIrqen src v).sh = s.sh := rfl
@[simp] theorem State.setIrqen_host (s : State) (src : Source) (v : Bool) : (s.setIrqen src v).host = s.host := rfl
@[simp] theorem State.setIrqen_mem (s : State) (src : Source) (v : Bool) : (s.setIrqen src v).mem = s.mem := rfl
@[simp] theorem State.setIrqen_client (s : State) (src : Source) (v : Bool) : (s.setIrqen src v).client = s.client := rfl
@[simp] theorem State.setIrqen_sched (s : State) (src : Source) (v : Bool) : (s.setIrqen src v).sched = s.sched := rfl
@[simp] theorem State.setIrqen_now (s : State) (src : Source) (v : Bool) : (s.setIrqen src v).now = s.now := rfl
@[simp] theorem State.setIrqen_tick (s : State) (src : Source) (v : Bool) : (s.setIrqen src v).tick = s.tick := rfl
@[simp] theorem State.setIrqen_free (s : State) (src : Source) (v : Bool) : (s.setIrqen src v).free = s.free := rfl

/-! ## `rearmSources` -/

@[simp] theorem State.rearmSources_cfg (s : State) : (s.rearmSources).cfg = s.cfg := rfl
@[simp] theorem State.rearmSources_phase (s : State) : (s.rearmSources).phase = s.phase := rfl
@[simp] theorem State.rearmSources_txn (s : State) : (s.rearmSources).txn = s.txn := rfl
@[simp] theorem State.rearmSources_eng (s : State) : (s.rearmSources).eng = s.eng := rfl
@[simp] theorem State.rearmSources_call (s : State) : (s.rearmSources).call = s.call := rfl
@[simp] theorem State.rearmSources_sem (s : State) : (s.rearmSources).sem = s.sem := rfl
@[simp] theorem State.rearmSources_irqen (s : State) : (s.rearmSources).irqen = ⟨true, true, true, true, s.irqen.usb⟩ := rfl
@[simp] theorem State.rearmSources_i2c (s : State) : (s.rearmSources).i2c = s.i2c := rfl
@[simp] theorem State.rearmSources_trace (s : State) : (s.rearmSources).trace = s.trace := rfl
@[simp] theorem State.rearmSources_tx (s : State) : (s.rearmSources).tx = s.tx := rfl
@[simp] theorem State.rearmSources_rx (s : State) : (s.rearmSources).rx = s.rx := rfl
@[simp] theorem State.rearmSources_ins (s : State) : (s.rearmSources).ins = s.ins := rfl
@[simp] theorem State.rearmSources_outs (s : State) : (s.rearmSources).outs = s.outs := rfl
@[simp] theorem State.rearmSources_usb (s : State) : (s.rearmSources).usb = s.usb := rfl
@[simp] theorem State.rearmSources_sh (s : State) : (s.rearmSources).sh = s.sh := rfl
@[simp] theorem State.rearmSources_host (s : State) : (s.rearmSources).host = s.host := rfl
@[simp] theorem State.rearmSources_mem (s : State) : (s.rearmSources).mem = s.mem := rfl
@[simp] theorem State.rearmSources_client (s : State) : (s.rearmSources).client = s.client := rfl
@[simp] theorem State.rearmSources_sched (s : State) : (s.rearmSources).sched = s.sched := rfl
@[simp] theorem State.rearmSources_now (s : State) : (s.rearmSources).now = s.now := rfl
@[simp] theorem State.rearmSources_tick (s : State) : (s.rearmSources).tick = s.tick := rfl
@[simp] theorem State.rearmSources_free (s : State) : (s.rearmSources).free = s.free := rfl

/-! ## `startReply` -/

@[simp] theorem State.startReply_cfg (s : State) (text : List Byte) : (s.startReply text).cfg = s.cfg := rfl
@[simp] theorem State.startReply_phase (s : State) (text : List Byte) : (s.startReply text).phase = s.phase := rfl
@[simp] theorem State.startReply_txn (s : State) (text : List Byte) : (s.startReply text).txn = s.txn := rfl
@[simp] theorem State.startReply_eng (s : State) (text : List Byte) : (s.startReply text).eng = s.eng := rfl
@[simp] theorem State.startReply_call (s : State) (text : List Byte) : (s.startReply text).call = s.call := rfl
@[simp] theorem State.startReply_sem (s : State) (text : List Byte) : (s.startReply text).sem = s.sem := rfl
@[simp] theorem State.startReply_irqen (s : State) (text : List Byte) : (s.startReply text).irqen = s.irqen := rfl
@[simp] theorem State.startReply_i2c (s : State) (text : List Byte) : (s.startReply text).i2c = s.i2c := rfl
@[simp] theorem State.startReply_trace (s : State) (text : List Byte) : (s.startReply text).trace = s.trace := rfl
@[simp] theorem State.startReply_tx (s : State) (text : List Byte) : (s.startReply text).tx = s.tx := rfl
@[simp] theorem State.startReply_rx (s : State) (text : List Byte) : (s.startReply text).rx = s.rx := rfl
@[simp] theorem State.startReply_ins (s : State) (text : List Byte) : (s.startReply text).ins = s.ins := rfl
@[simp] theorem State.startReply_outs (s : State) (text : List Byte) : (s.startReply text).outs = s.outs := rfl
@[simp] theorem State.startReply_usb (s : State) (text : List Byte) : (s.startReply text).usb = s.usb := rfl
@[simp] theorem State.startReply_sh (s : State) (text : List Byte) : (s.startReply text).sh = { s.sh with pos := .REPLYING, sendRest := text, sendAtB := false } := rfl
@[simp] theorem State.startReply_host (s : State) (text : List Byte) : (s.startReply text).host = s.host := rfl
@[simp] theorem State.startReply_mem (s : State) (text : List Byte) : (s.startReply text).mem = s.mem := rfl
@[simp] theorem State.startReply_client (s : State) (text : List Byte) : (s.startReply text).client = s.client := rfl
@[simp] theorem State.startReply_sched (s : State) (text : List Byte) : (s.startReply text).sched = s.sched := rfl
@[simp] theorem State.startReply_now (s : State) (text : List Byte) : (s.startReply text).now = s.now := rfl
@[simp] theorem State.startReply_tick (s : State) (text : List Byte) : (s.startReply text).tick = s.tick := rfl
@[simp] theorem State.startReply_free (s : State) (text : List Byte) : (s.startReply text).free = s.free := rfl

/-! ## `rejectLine` -/

@[simp] theorem State.rejectLine_cfg (s : State) : (s.rejectLine).cfg = s.cfg := rfl
@[simp] theorem State.rejectLine_phase (s : State) : (s.rejectLine).phase = s.phase := rfl
@[simp] theorem State.rejectLine_txn (s : State) : (s.rejectLine).txn = s.txn := rfl
@[simp] theorem State.rejectLine_eng (s : State) : (s.rejectLine).eng = { s.eng with cause := .MALFORMED } := rfl
@[simp] theorem State.rejectLine_call (s : State) : (s.rejectLine).call = s.call := rfl
@[simp] theorem State.rejectLine_sem (s : State) : (s.rejectLine).sem = s.sem := rfl
@[simp] theorem State.rejectLine_irqen (s : State) : (s.rejectLine).irqen = s.irqen := rfl
@[simp] theorem State.rejectLine_i2c (s : State) : (s.rejectLine).i2c = s.i2c := rfl
@[simp] theorem State.rejectLine_trace (s : State) : (s.rejectLine).trace = s.trace := rfl
@[simp] theorem State.rejectLine_tx (s : State) : (s.rejectLine).tx = s.tx := rfl
@[simp] theorem State.rejectLine_rx (s : State) : (s.rejectLine).rx = s.rx := rfl
@[simp] theorem State.rejectLine_ins (s : State) : (s.rejectLine).ins = s.ins := rfl
@[simp] theorem State.rejectLine_outs (s : State) : (s.rejectLine).outs = s.outs := rfl
@[simp] theorem State.rejectLine_usb (s : State) : (s.rejectLine).usb = s.usb := rfl
@[simp] theorem State.rejectLine_sh (s : State) : (s.rejectLine).sh = { s.sh with pos := .REPLYING, sendRest := Text.error, sendAtB := false } := rfl
@[simp] theorem State.rejectLine_host (s : State) : (s.rejectLine).host = s.host := rfl
@[simp] theorem State.rejectLine_mem (s : State) : (s.rejectLine).mem = s.mem := rfl
@[simp] theorem State.rejectLine_client (s : State) : (s.rejectLine).client = s.client := rfl
@[simp] theorem State.rejectLine_sched (s : State) : (s.rejectLine).sched = s.sched := rfl
@[simp] theorem State.rejectLine_now (s : State) : (s.rejectLine).now = s.now := rfl
@[simp] theorem State.rejectLine_tick (s : State) : (s.rejectLine).tick = s.tick := rfl
@[simp] theorem State.rejectLine_free (s : State) : (s.rejectLine).free = s.free := rfl

/-! ## `fillBuf` -/

@[simp] theorem State.fillBuf_cfg (s : State) (buf : Nat) (data : List Byte) : (s.fillBuf buf data).cfg = s.cfg := rfl
@[simp] theorem State.fillBuf_phase (s : State) (buf : Nat) (data : List Byte) : (s.fillBuf buf data).phase = s.phase := rfl
@[simp] theorem State.fillBuf_txn (s : State) (buf : Nat) (data : List Byte) : (s.fillBuf buf data).txn = s.txn := rfl
@[simp] theorem State.fillBuf_eng (s : State) (buf : Nat) (data : List Byte) : (s.fillBuf buf data).eng = s.eng := rfl
@[simp] theorem State.fillBuf_call (s : State) (buf : Nat) (data : List Byte) : (s.fillBuf buf data).call = s.call := rfl
@[simp] theorem State.fillBuf_sem (s : State) (buf : Nat) (data : List Byte) : (s.fillBuf buf data).sem = s.sem := rfl
@[simp] theorem State.fillBuf_irqen (s : State) (buf : Nat) (data : List Byte) : (s.fillBuf buf data).irqen = s.irqen := rfl
@[simp] theorem State.fillBuf_i2c (s : State) (buf : Nat) (data : List Byte) : (s.fillBuf buf data).i2c = s.i2c := rfl
@[simp] theorem State.fillBuf_trace (s : State) (buf : Nat) (data : List Byte) : (s.fillBuf buf data).trace = s.trace := rfl
@[simp] theorem State.fillBuf_tx (s : State) (buf : Nat) (data : List Byte) : (s.fillBuf buf data).tx = s.tx := rfl
@[simp] theorem State.fillBuf_rx (s : State) (buf : Nat) (data : List Byte) : (s.fillBuf buf data).rx = s.rx := rfl
@[simp] theorem State.fillBuf_ins (s : State) (buf : Nat) (data : List Byte) : (s.fillBuf buf data).ins = s.ins := rfl
@[simp] theorem State.fillBuf_outs (s : State) (buf : Nat) (data : List Byte) : (s.fillBuf buf data).outs = s.outs := rfl
@[simp] theorem State.fillBuf_usb (s : State) (buf : Nat) (data : List Byte) : (s.fillBuf buf data).usb = s.usb := rfl
@[simp] theorem State.fillBuf_sh (s : State) (buf : Nat) (data : List Byte) : (s.fillBuf buf data).sh = s.sh := rfl
@[simp] theorem State.fillBuf_host (s : State) (buf : Nat) (data : List Byte) : (s.fillBuf buf data).host = s.host := rfl
@[simp] theorem State.fillBuf_mem (s : State) (buf : Nat) (data : List Byte) : (s.fillBuf buf data).mem = s.mem.writeN buf data := rfl
@[simp] theorem State.fillBuf_client (s : State) (buf : Nat) (data : List Byte) : (s.fillBuf buf data).client = s.client := rfl
@[simp] theorem State.fillBuf_sched (s : State) (buf : Nat) (data : List Byte) : (s.fillBuf buf data).sched = s.sched := rfl
@[simp] theorem State.fillBuf_now (s : State) (buf : Nat) (data : List Byte) : (s.fillBuf buf data).now = s.now := rfl
@[simp] theorem State.fillBuf_tick (s : State) (buf : Nat) (data : List Byte) : (s.fillBuf buf data).tick = s.tick := rfl
@[simp] theorem State.fillBuf_free (s : State) (buf : Nat) (data : List Byte) : (s.fillBuf buf data).free = s.free := rfl

/-! ## `beginXfer` -/

@[simp] theorem State.beginXfer_cfg (s : State) (c : Call) : (s.beginXfer c).cfg = s.cfg := rfl
@[simp] theorem State.beginXfer_phase (s : State) (c : Call) : (s.beginXfer c).phase = .CONFIG := rfl
@[simp] theorem State.beginXfer_txn (s : State) (c : Call) : (s.beginXfer c).txn = s.txn := rfl
@[simp] theorem State.beginXfer_eng (s : State) (c : Call) : (s.beginXfer c).eng = { s.eng with total := 0 } := rfl
@[simp] theorem State.beginXfer_call (s : State) (c : Call) : (s.beginXfer c).call = some { c with off := 0 } := rfl
@[simp] theorem State.beginXfer_sem (s : State) (c : Call) : (s.beginXfer c).sem = s.sem := rfl
@[simp] theorem State.beginXfer_irqen (s : State) (c : Call) : (s.beginXfer c).irqen = s.irqen := rfl
@[simp] theorem State.beginXfer_i2c (s : State) (c : Call) : (s.beginXfer c).i2c = s.i2c := rfl
@[simp] theorem State.beginXfer_trace (s : State) (c : Call) : (s.beginXfer c).trace = s.trace := rfl
@[simp] theorem State.beginXfer_tx (s : State) (c : Call) : (s.beginXfer c).tx = s.tx := rfl
@[simp] theorem State.beginXfer_rx (s : State) (c : Call) : (s.beginXfer c).rx = s.rx := rfl
@[simp] theorem State.beginXfer_ins (s : State) (c : Call) : (s.beginXfer c).ins = s.ins := rfl
@[simp] theorem State.beginXfer_outs (s : State) (c : Call) : (s.beginXfer c).outs = s.outs := rfl
@[simp] theorem State.beginXfer_usb (s : State) (c : Call) : (s.beginXfer c).usb = s.usb := rfl
@[simp] theorem State.beginXfer_sh (s : State) (c : Call) : (s.beginXfer c).sh = s.sh := rfl
@[simp] theorem State.beginXfer_host (s : State) (c : Call) : (s.beginXfer c).host = s.host := rfl
@[simp] theorem State.beginXfer_mem (s : State) (c : Call) : (s.beginXfer c).mem = s.mem := rfl
@[simp] theorem State.beginXfer_client (s : State) (c : Call) : (s.beginXfer c).client = s.client := rfl
@[simp] theorem State.beginXfer_sched (s : State) (c : Call) : (s.beginXfer c).sched = s.sched := rfl
@[simp] theorem State.beginXfer_now (s : State) (c : Call) : (s.beginXfer c).now = s.now := rfl
@[simp] theorem State.beginXfer_tick (s : State) (c : Call) : (s.beginXfer c).tick = s.tick := rfl
@[simp] theorem State.beginXfer_free (s : State) (c : Call) : (s.beginXfer c).free = s.free := rfl

/-! ## `havoc` -/

@[simp] theorem State.havoc_cfg (s : State) (buf n : Nat) : (s.havoc buf n).cfg = s.cfg := rfl
@[simp] theorem State.havoc_phase (s : State) (buf n : Nat) : (s.havoc buf n).phase = s.phase := rfl
@[simp] theorem State.havoc_txn (s : State) (buf n : Nat) : (s.havoc buf n).txn = s.txn := rfl
@[simp] theorem State.havoc_eng (s : State) (buf n : Nat) : (s.havoc buf n).eng = s.eng := rfl
@[simp] theorem State.havoc_call (s : State) (buf n : Nat) : (s.havoc buf n).call = s.call := rfl
@[simp] theorem State.havoc_sem (s : State) (buf n : Nat) : (s.havoc buf n).sem = s.sem := rfl
@[simp] theorem State.havoc_irqen (s : State) (buf n : Nat) : (s.havoc buf n).irqen = s.irqen := rfl
@[simp] theorem State.havoc_i2c (s : State) (buf n : Nat) : (s.havoc buf n).i2c = s.i2c := rfl
@[simp] theorem State.havoc_trace (s : State) (buf n : Nat) : (s.havoc buf n).trace = s.trace := rfl
@[simp] theorem State.havoc_tx (s : State) (buf n : Nat) : (s.havoc buf n).tx = s.tx := rfl
@[simp] theorem State.havoc_rx (s : State) (buf n : Nat) : (s.havoc buf n).rx = s.rx := rfl
@[simp] theorem State.havoc_ins (s : State) (buf n : Nat) : (s.havoc buf n).ins = s.ins := rfl
@[simp] theorem State.havoc_outs (s : State) (buf n : Nat) : (s.havoc buf n).outs = s.outs := rfl
@[simp] theorem State.havoc_usb (s : State) (buf n : Nat) : (s.havoc buf n).usb = s.usb := rfl
@[simp] theorem State.havoc_sh (s : State) (buf n : Nat) : (s.havoc buf n).sh = s.sh := rfl
@[simp] theorem State.havoc_host (s : State) (buf n : Nat) : (s.havoc buf n).host = s.host := rfl
@[simp] theorem State.havoc_client (s : State) (buf n : Nat) : (s.havoc buf n).client = s.client := rfl
@[simp] theorem State.havoc_sched (s : State) (buf n : Nat) : (s.havoc buf n).sched = s.sched := rfl
@[simp] theorem State.havoc_now (s : State) (buf n : Nat) : (s.havoc buf n).now = s.now := rfl
@[simp] theorem State.havoc_tick (s : State) (buf n : Nat) : (s.havoc buf n).tick = s.tick := rfl
@[simp] theorem State.havoc_free (s : State) (buf n : Nat) : (s.havoc buf n).free = s.free + n := rfl

/-! ## `chosen` -/

@[simp] theorem State.chosen_cfg (s : State) (m : Move) (d : Byte) (rest : List Choice) : (s.chosen m d rest).cfg = s.cfg := rfl
@[simp] theorem State.chosen_phase (s : State) (m : Move) (d : Byte) (rest : List Choice) : (s.chosen m d rest).phase = s.phase := rfl
@[simp] theorem State.chosen_txn (s : State) (m : Move) (d : Byte) (rest : List Choice) : (s.chosen m d rest).txn = s.txn := rfl
@[simp] theorem State.chosen_eng (s : State) (m : Move) (d : Byte) (rest : List Choice) : (s.chosen m d rest).eng = s.eng := rfl
@[simp] theorem State.chosen_call (s : State) (m : Move) (d : Byte) (rest : List Choice) : (s.chosen m d rest).call = s.call := rfl
@[simp] theorem State.chosen_sem (s : State) (m : Move) (d : Byte) (rest : List Choice) : (s.chosen m d rest).sem = s.sem := rfl
@[simp] theorem State.chosen_irqen (s : State) (m : Move) (d : Byte) (rest : List Choice) : (s.chosen m d rest).irqen = s.irqen := rfl
@[simp] theorem State.chosen_i2c (s : State) (m : Move) (d : Byte) (rest : List Choice) : (s.chosen m d rest).i2c = s.i2c := rfl
@[simp] theorem State.chosen_trace (s : State) (m : Move) (d : Byte) (rest : List Choice) : (s.chosen m d rest).trace = s.trace := rfl
@[simp] theorem State.chosen_tx (s : State) (m : Move) (d : Byte) (rest : List Choice) : (s.chosen m d rest).tx = s.tx := rfl
@[simp] theorem State.chosen_rx (s : State) (m : Move) (d : Byte) (rest : List Choice) : (s.chosen m d rest).rx = s.rx := rfl
@[simp] theorem State.chosen_ins (s : State) (m : Move) (d : Byte) (rest : List Choice) : (s.chosen m d rest).ins = s.ins := rfl
@[simp] theorem State.chosen_outs (s : State) (m : Move) (d : Byte) (rest : List Choice) : (s.chosen m d rest).outs = s.outs := rfl
@[simp] theorem State.chosen_usb (s : State) (m : Move) (d : Byte) (rest : List Choice) : (s.chosen m d rest).usb = s.usb := rfl
@[simp] theorem State.chosen_sh (s : State) (m : Move) (d : Byte) (rest : List Choice) : (s.chosen m d rest).sh = s.sh := rfl
@[simp] theorem State.chosen_host (s : State) (m : Move) (d : Byte) (rest : List Choice) : (s.chosen m d rest).host = s.host := rfl
@[simp] theorem State.chosen_mem (s : State) (m : Move) (d : Byte) (rest : List Choice) : (s.chosen m d rest).mem = s.mem := rfl
@[simp] theorem State.chosen_client (s : State) (m : Move) (d : Byte) (rest : List Choice) : (s.chosen m d rest).client = s.client := rfl
@[simp] theorem State.chosen_sched (s : State) (m : Move) (d : Byte) (rest : List Choice) : (s.chosen m d rest).sched = rest := rfl
@[simp] theorem State.chosen_now (s : State) (m : Move) (d : Byte) (rest : List Choice) : (s.chosen m d rest).now = ⟨m, d⟩ := rfl
@[simp] theorem State.chosen_tick (s : State) (m : Move) (d : Byte) (rest : List Choice) : (s.chosen m d rest).tick = s.tick := rfl
@[simp] theorem State.chosen_free (s : State) (m : Move) (d : Byte) (rest : List Choice) : (s.chosen m d rest).free = s.free := rfl

/-! ## `setChan` and `accept` -/

@[simp] theorem State.setChan_cfg (s : State) (d : Dir) (c : Dma) : (s.setChan d c).cfg = s.cfg := by
  cases d <;> rfl
@[simp] theorem State.setChan_phase (s : State) (d : Dir) (c : Dma) : (s.setChan d c).phase = s.phase := by
  cases d <;> rfl
@[simp] theorem State.setChan_txn (s : State) (d : Dir) (c : Dma) : (s.setChan d c).txn = s.txn := by
  cases d <;> rfl
@[simp] theorem State.setChan_eng (s : State) (d : Dir) (c : Dma) : (s.setChan d c).eng = s.eng := by
  cases d <;> rfl
@[simp] theorem State.setChan_call (s : State) (d : Dir) (c : Dma) : (s.setChan d c).call = s.call := by
  cases d <;> rfl
@[simp] theorem State.setChan_sem (s : State) (d : Dir) (c : Dma) : (s.setChan d c).sem = s.sem := by
  cases d <;> rfl
@[simp] theorem State.setChan_irqen (s : State) (d : Dir) (c : Dma) : (s.setChan d c).irqen = s.irqen := by
  cases d <;> rfl
@[simp] theorem State.setChan_i2c (s : State) (d : Dir) (c : Dma) : (s.setChan d c).i2c = s.i2c := by
  cases d <;> rfl
@[simp] theorem State.setChan_trace (s : State) (d : Dir) (c : Dma) : (s.setChan d c).trace = s.trace := by
  cases d <;> rfl
@[simp] theorem State.setChan_ins (s : State) (d : Dir) (c : Dma) : (s.setChan d c).ins = s.ins := by
  cases d <;> rfl
@[simp] theorem State.setChan_outs (s : State) (d : Dir) (c : Dma) : (s.setChan d c).outs = s.outs := by
  cases d <;> rfl
@[simp] theorem State.setChan_usb (s : State) (d : Dir) (c : Dma) : (s.setChan d c).usb = s.usb := by
  cases d <;> rfl
@[simp] theorem State.setChan_sh (s : State) (d : Dir) (c : Dma) : (s.setChan d c).sh = s.sh := by
  cases d <;> rfl
@[simp] theorem State.setChan_host (s : State) (d : Dir) (c : Dma) : (s.setChan d c).host = s.host := by
  cases d <;> rfl
@[simp] theorem State.setChan_mem (s : State) (d : Dir) (c : Dma) : (s.setChan d c).mem = s.mem := by
  cases d <;> rfl
@[simp] theorem State.setChan_client (s : State) (d : Dir) (c : Dma) : (s.setChan d c).client = s.client := by
  cases d <;> rfl
@[simp] theorem State.setChan_sched (s : State) (d : Dir) (c : Dma) : (s.setChan d c).sched = s.sched := by
  cases d <;> rfl
@[simp] theorem State.setChan_now (s : State) (d : Dir) (c : Dma) : (s.setChan d c).now = s.now := by
  cases d <;> rfl
@[simp] theorem State.setChan_tick (s : State) (d : Dir) (c : Dma) : (s.setChan d c).tick = s.tick := by
  cases d <;> rfl
@[simp] theorem State.setChan_free (s : State) (d : Dir) (c : Dma) : (s.setChan d c).free = s.free := by
  cases d <;> rfl
@[simp] theorem State.setChan_write (s : State) (c : Dma) : s.setChan .W c = { s with tx := c } := rfl
@[simp] theorem State.setChan_read (s : State) (c : Dma) : s.setChan .R c = { s with rx := c } := rfl
@[simp] theorem State.chan_write (s : State) : s.chan .W = s.tx := rfl
@[simp] theorem State.chan_read (s : State) : s.chan .R = s.rx := rfl

@[simp] theorem State.accept_cfg (s : State) : s.accept.cfg = s.cfg := by
  unfold State.accept; split <;> rfl
@[simp] theorem State.accept_phase (s : State) : s.accept.phase = s.phase := by
  unfold State.accept; split <;> rfl
@[simp] theorem State.accept_txn (s : State) : s.accept.txn = s.txn := by
  unfold State.accept; split <;> rfl
@[simp] theorem State.accept_eng (s : State) : s.accept.eng = s.eng := by
  unfold State.accept; split <;> rfl
@[simp] theorem State.accept_call (s : State) : s.accept.call = s.call := by
  unfold State.accept; split <;> rfl
@[simp] theorem State.accept_sem (s : State) : s.accept.sem = s.sem := by
  unfold State.accept; split <;> rfl
@[simp] theorem State.accept_irqen (s : State) : s.accept.irqen = s.irqen := by
  unfold State.accept; split <;> rfl
@[simp] theorem State.accept_i2c (s : State) : s.accept.i2c = s.i2c := by
  unfold State.accept; split <;> rfl
@[simp] theorem State.accept_trace (s : State) : s.accept.trace = s.trace := by
  unfold State.accept; split <;> rfl
@[simp] theorem State.accept_tx (s : State) : s.accept.tx = s.tx := by
  unfold State.accept; split <;> rfl
@[simp] theorem State.accept_rx (s : State) : s.accept.rx = s.rx := by
  unfold State.accept; split <;> rfl
@[simp] theorem State.accept_ins (s : State) : s.accept.ins = s.ins := by
  unfold State.accept; split <;> rfl
@[simp] theorem State.accept_outs (s : State) : s.accept.outs = s.outs := by
  unfold State.accept; split <;> rfl
@[simp] theorem State.accept_usb (s : State) : s.accept.usb = s.usb := by
  unfold State.accept; split <;> rfl
@[simp] theorem State.accept_sh (s : State) : s.accept.sh = s.sh := by
  unfold State.accept; split <;> rfl
@[simp] theorem State.accept_host (s : State) : s.accept.host = s.host := by
  unfold State.accept; split <;> rfl
@[simp] theorem State.accept_mem (s : State) : s.accept.mem = s.mem := by
  unfold State.accept; split <;> rfl
@[simp] theorem State.accept_sched (s : State) : s.accept.sched = s.sched := by
  unfold State.accept; split <;> rfl
@[simp] theorem State.accept_now (s : State) : s.accept.now = s.now := by
  unfold State.accept; split <;> rfl
@[simp] theorem State.accept_tick (s : State) : s.accept.tick = s.tick := by
  unfold State.accept; split <;> rfl
@[simp] theorem State.accept_free (s : State) : s.accept.free = s.free := by
  unfold State.accept; split <;> rfl

end Sys2Proof.Machine
end

