-- ==== Sys2Proof/Laws/Memory.lean ====
section
/-!
SUPPORT. The laws of data memory: reads after writes, and the canonical form, for every memory operation.
-/

namespace Sys2Proof.Machine

/-- Nothing is listed at an erased address. -/
theorem Memory.read_erase_same (m : Memory) (a : Nat) : (m.erase a).read a = Memory.unlisted := by
  induction m with
  | nil => rfl
  | cons kv rest ih =>
    obtain ⟨k, v⟩ := kv
    by_cases hk : k = a
    · rw [show Memory.erase ((k, v) :: rest) a = Memory.erase rest a by simp [Memory.erase, hk]]; exact ih
    · rw [show Memory.erase ((k, v) :: rest) a = (k, v) :: Memory.erase rest a by simp [Memory.erase, hk]]
      simpa [Memory.read, hk] using ih

/-- Erasing leaves every other address alone. -/
theorem Memory.read_erase_other (m : Memory) (a x : Nat) (h : x ≠ a) : (m.erase a).read x = m.read x := by
  induction m with
  | nil => rfl
  | cons kv rest ih =>
    obtain ⟨k, v⟩ := kv
    by_cases hk : k = a
    · rw [show Memory.erase ((k, v) :: rest) a = Memory.erase rest a by simp [Memory.erase, hk]]
      simpa [Memory.read, hk, Ne.symm h] using ih
    · rw [show Memory.erase ((k, v) :: rest) a = (k, v) :: Memory.erase rest a by simp [Memory.erase, hk]]
      simp [Memory.read, ih]

/-- An erased address is listed nowhere. -/
theorem Memory.erase_keys (m : Memory) (a : Nat) : ∀ c ∈ m.erase a, c.1 ≠ a := by
  intro c hc
  simpa [Memory.erase] using (List.mem_filter.mp hc).2

/-- An entry put into a list without its address is the one read. -/
theorem Memory.read_insert_same (m : Memory) (a : Nat) (b : Byte) (h : ∀ c ∈ m, c.1 ≠ a) : (m.insert a b).read a = b := by
  induction m with
  | nil => simp [Memory.insert, Memory.read]
  | cons kv rest ih =>
    obtain ⟨k, v⟩ := kv
    have hk : k ≠ a := h (k, v) (by simp)
    unfold Memory.insert
    split
    · simp [Memory.read]
    · simp only [Memory.read, hk, if_false]
      exact ih (fun c hc => h c (by simp [hc]))

/-- Putting an entry in leaves every other address alone. -/
theorem Memory.read_insert_other (m : Memory) (a x : Nat) (b : Byte) (h : x ≠ a) : (m.insert a b).read x = m.read x := by
  induction m with
  | nil => simp [Memory.insert, Memory.read, Ne.symm h]
  | cons kv rest ih =>
    obtain ⟨k, v⟩ := kv
    unfold Memory.insert
    split
    · simp [Memory.read, Ne.symm h]
    · simp [Memory.read, ih]

/-- A write is read back. -/
@[simp] theorem Memory.read_write_same (m : Memory) (a : Nat) (b : Byte) : (m.write a b).read a = b := by
  unfold Memory.write
  split
  · rename_i hb; rw [hb]; exact Memory.read_erase_same m a
  · exact Memory.read_insert_same _ a b (Memory.erase_keys m a)

/-- A write leaves every other address alone. -/
@[simp] theorem Memory.read_write_other (m : Memory) (a x : Nat) (b : Byte) (h : x ≠ a) :
    (m.write a b).read x = m.read x := by
  unfold Memory.write
  split
  · exact Memory.read_erase_other m a x h
  · rw [Memory.read_insert_other _ a x b h, Memory.read_erase_other m a x h]

/-- A list that rises above a bound rises above a lower one. -/
theorem Memory.wfAbove_lower (m : Memory) (lo : Option Nat) (k : Nat) (hlo : ∀ l ∈ lo, l < k)
    (h : Memory.wfAbove (some k) m = true) : Memory.wfAbove lo m = true := by
  cases m with
  | nil => rfl
  | cons kv rest =>
    obtain ⟨k', v⟩ := kv
    simp only [Memory.wfAbove, Bool.and_eq_true, decide_eq_true_eq] at h ⊢
    refine ⟨⟨?_, h.1.2⟩, h.2⟩
    cases lo with
    | none => rfl
    | some l =>
      have hl := hlo l rfl
      have hk := h.1.1
      simp only [decide_eq_true_eq]
      omega

/-- Erasing keeps the canonical form above any bound. -/
theorem Memory.wfAbove_erase (m : Memory) (a : Nat) (lo : Option Nat) (h : Memory.wfAbove lo m = true) :
    Memory.wfAbove lo (m.erase a) = true := by
  induction m generalizing lo with
  | nil => rfl
  | cons kv rest ih =>
    obtain ⟨k, v⟩ := kv
    simp only [Memory.wfAbove, Bool.and_eq_true] at h
    have hr := ih (some k) h.2
    by_cases hk : k = a
    · rw [show Memory.erase ((k, v) :: rest) a = Memory.erase rest a by simp [Memory.erase, hk]]
      refine Memory.wfAbove_lower _ lo k ?_ hr
      intro l hl
      cases hl
      simpa using h.1.1
    · rw [show Memory.erase ((k, v) :: rest) a = (k, v) :: Memory.erase rest a by simp [Memory.erase, hk]]
      simp only [Memory.wfAbove, Bool.and_eq_true]
      exact ⟨h.1, hr⟩

/-- Putting in a new entry keeps the canonical form above any bound below its address. -/
theorem Memory.wfAbove_insert (m : Memory) (a : Nat) (b : Byte) (lo : Option Nat) (h : Memory.wfAbove lo m = true)
    (hlo : ∀ l ∈ lo, l < a) (hm : ∀ c ∈ m, c.1 ≠ a) (hb : b ≠ Memory.unlisted) : Memory.wfAbove lo (m.insert a b) = true := by
  have low : ∀ o : Option Nat, (∀ l ∈ o, l < a) → (match o with
      | some l => decide (l < a)
      | none => true) = true := by
    intro o ho
    cases o with
    | none => rfl
    | some l => simpa using ho l rfl
  induction m generalizing lo with
  | nil =>
    simp only [Memory.insert, Memory.wfAbove, Bool.and_eq_true]
    exact ⟨⟨low lo hlo, by simpa using hb⟩, trivial⟩
  | cons kv rest ih =>
    obtain ⟨k, v⟩ := kv
    simp only [Memory.wfAbove, Bool.and_eq_true] at h
    have hk : k ≠ a := hm (k, v) (by simp)
    unfold Memory.insert
    split
    · simp only [Memory.wfAbove, Bool.and_eq_true]
      exact ⟨⟨low lo hlo, by simpa using hb⟩, ⟨by simpa, h.1.2⟩, h.2⟩
    · simp only [Memory.wfAbove, Bool.and_eq_true]
      refine ⟨h.1, ih (some k) h.2 ?_ (fun c hc => hm c (by simp [hc]))⟩
      intro l hl; cases hl; omega

/-- A write keeps the canonical form. -/
theorem Memory.wf_write (m : Memory) (a : Nat) (b : Byte) (h : m.wf = true) : (m.write a b).wf = true := by
  have he := Memory.wfAbove_erase m a none h
  unfold Memory.write
  split
  · exact he
  · rename_i hb
    exact Memory.wfAbove_insert _ a b none he (by simp) (Memory.erase_keys m a) hb

/-- Writing a list of bytes keeps the canonical form. -/
theorem Memory.wf_writeN (m : Memory) (a : Nat) (bs : List Byte) (h : m.wf = true) : (m.writeN a bs).wf = true := by
  induction bs generalizing m a with
  | nil => exact h
  | cons b rest ih => exact ih _ _ (Memory.wf_write m a b h)

/-- Writing a list of bytes leaves every address outside it alone. -/
theorem Memory.read_writeN_outside (m : Memory) (a x : Nat) (bs : List Byte) (h : x < a ∨ a + bs.length ≤ x) :
    (m.writeN a bs).read x = m.read x := by
  induction bs generalizing m a with
  | nil => rfl
  | cons b rest ih =>
    simp only [List.length_cons] at h
    simp only [Memory.writeN]
    rw [ih _ _ (by omega), Memory.read_write_other _ _ _ _ (by omega)]

/-- A list of bytes written is read back, one by one. -/
theorem Memory.read_writeN_inside (m : Memory) (a : Nat) (bs : List Byte) (j : Nat) (h : j < bs.length) :
    (m.writeN a bs).read (a + j) = bs.getD j 0 := by
  induction bs generalizing m a j with
  | nil => simp at h
  | cons b rest ih =>
    simp only [Memory.writeN]
    cases j with
    | zero =>
      rw [Memory.read_writeN_outside _ _ _ _ (by omega), Nat.add_zero, Memory.read_write_same]; rfl
    | succ j =>
      rw [show a + (j + 1) = (a + 1) + j by omega, ih _ _ _ (by simpa using h)]
      rfl

/-- A list of bytes written is read back whole. -/
@[simp] theorem Memory.readN_writeN (m : Memory) (a : Nat) (bs : List Byte) :
    (m.writeN a bs).readN a bs.length = bs := by
  apply List.ext_getElem
  · simp [Memory.readN]
  · intro j h1 h2
    simp only [Memory.readN, List.getElem_map, List.getElem_range]
    rw [Memory.read_writeN_inside m a bs j h2, List.getD_eq_getElem _ _ h2]

/-- What is read where nothing was written stays. -/
theorem Memory.readN_writeN_outside (m : Memory) (a x n : Nat) (bs : List Byte) (h : x + n ≤ a ∨ a + bs.length ≤ x) :
    (m.writeN a bs).readN x n = m.readN x n := by
  simp only [Memory.readN]
  apply List.map_congr_left
  intro j hj
  have := List.mem_range.mp hj
  exact Memory.read_writeN_outside _ _ _ _ (by omega)

/-- Free bytes keep the canonical form. -/
theorem State.wf_havoc (s : State) (buf n : Nat) (h : s.mem.wf = true) : (s.havoc buf n).mem.wf = true :=
  Memory.wf_writeN _ _ _ h

/-- Free bytes land in their buffer only. -/
theorem State.read_havoc_outside (s : State) (buf n x : Nat) (h : x < buf ∨ buf + n ≤ x) :
    (s.havoc buf n).mem.read x = s.mem.read x :=
  Memory.read_writeN_outside _ _ _ _ (by simpa using h)

end Sys2Proof.Machine
end

