-- ==== Sys2Proof/Laws/Stream.lean ====
section
/-!
SUPPORT. The laws of the circular buffer's parts.
-/

namespace Sys2Proof.Machine

/-- A put changes no buffer's size. -/
@[simp] theorem putBytes_length (cap : Nat) (buf : List Byte) (w : Nat) (p : List Byte) :
    (putBytes cap buf w p).length = buf.length := by
  induction p generalizing buf w with
  | nil => rfl
  | cons b rest ih => simp [putBytes, ih]

/-- A put of nothing. -/
@[simp] theorem putBytes_nil (cap : Nat) (buf : List Byte) (w : Nat) : putBytes cap buf w [] = buf := rfl

/-- A get of `k` bytes gives `k` bytes. -/
@[simp] theorem ByteStream.peek_length (cap : Nat) (q : ByteStream) (k : Nat) : (q.peek cap k).length = k := by
  simp [ByteStream.peek]

/-- A byte that lies at none of the put's places is kept. -/
theorem putBytes_getD_other (cap : Nat) (buf : List Byte) (w : Nat) (p : List Byte) (x : Nat)
    (h : ∀ j < p.length, (w + j) % cap ≠ x) : (putBytes cap buf w p).getD x 0 = buf.getD x 0 := by
  induction p generalizing buf w with
  | nil => rfl
  | cons b rest ih =>
    simp only [putBytes]
    rw [ih]
    · have h0 := h 0 (by simp)
      simp only [Nat.add_zero] at h0
      simp [List.getD, h0]
    · intro j hj
      have := h (j + 1) (by simpa using hj)
      rwa [show w + 1 + j = w + (j + 1) by omega]

end Sys2Proof.Machine
end

