-- ==== Sys2Proof/Laws/Ops.lean ====
section
/-!
SUPPORT. What a step and each shared operation can do, said once.
-/

namespace Sys2Proof.Machine

/-- A call is made exactly where it is not refused. -/
theorem State.makeCall_next {s t : State} {why : Option Refusal} {c : Call} (h : s.makeCall why c = .next t) :
    why = none ∧ t = s.beginXfer c := by
  cases why with
  | none => simp only [State.makeCall, Host.Outcome.next.injEq] at h; exact ⟨rfl, h.symm⟩
  | some r => simp [State.makeCall] at h

/-- What a request of one buffer that is not refused satisfies (R264). -/
theorem refuseOne_eq_none {s : State} {buf len : Nat} :
    refuseOne s buf len = none ↔ (1 ≤ len ∧ buf + len ≤ memTop s.cfg ∧ s.inFlight = false) := by
  unfold refuseOne bufferBad
  split
  · simp; omega
  · split
    · rename_i h; simp only [decide_eq_true_eq] at h; simp; omega
    · rename_i h0 h; simp only [decide_eq_true_eq, not_lt] at h
      split
      · simp_all
      · simp_all; omega

/-- What a request of two buffers that is not refused satisfies (R264). -/
theorem refuseTwo_eq_none {s : State} {buf len buf2 len2 : Nat} :
    refuseTwo s buf len buf2 len2 = none ↔
      (1 ≤ len ∧ buf + len ≤ memTop s.cfg ∧ buf2 + len2 ≤ memTop s.cfg ∧ s.inFlight = false) := by
  unfold refuseTwo bufferBad
  split
  · simp; omega
  · split
    · rename_i h; simp only [Bool.or_eq_true, decide_eq_true_eq] at h; simp; omega
    · rename_i h0 h; simp only [Bool.or_eq_true, decide_eq_true_eq, not_or, not_lt] at h
      split
      · simp_all
      · simp_all; omega

/-- An engine request is in flight exactly where a call is, or a chunk. -/
theorem State.inFlight_eq_false {s : State} : s.inFlight = false ↔ (s.call = none ∧ s.phase = .IDLE) := by
  simp [State.inFlight]

/-- A chunk step that reads TXN goes on exactly where there is a record. -/
theorem State.withTxn_next {s t : State} {f : Txn → State} (h : s.withTxn f = .next t) :
    ∃ x, s.txn = some x ∧ t = f x := by
  unfold State.withTxn at h
  split at h
  · rename_i x hx; simp only [Host.Outcome.next.injEq] at h; exact ⟨x, hx, h.symm⟩
  · simp at h

/-- What a step can do: run the instruction its agent is at, take the agent's other step, or hold. -/
theorem step_cases {s s' : State} (h : step s = .next s') :
    configRefusal s.cfg = none ∧
      ((∃ i, s.takeChoice.fetch = some i ∧ exec i s.takeChoice.accept = .next s') ∨
        (s.takeChoice.fetch = none ∧ s.takeChoice.enabled s.takeChoice.now.move = true ∧
          act s.takeChoice.now.move s.takeChoice = .next s') ∨
        (s.takeChoice.fetch = none ∧ s.takeChoice.enabled s.takeChoice.now.move = false ∧ s' = s.takeChoice)) := by
  unfold step at h
  split at h
  · simp at h
  · rename_i hc
    refine ⟨hc, ?_⟩
    split at h
    · rename_i i hi; exact .inl ⟨i, hi, h⟩
    · rename_i hf
      unfold micro at h
      split at h
      · rename_i he; exact .inr (.inl ⟨hf, he, h⟩)
      · rename_i he
        simp only [Host.Outcome.next.injEq] at h
        exact .inr (.inr ⟨hf, by simpa using he, h.symm⟩)

/-- Taking up a choice changes the schedule, the choice and the counter of free choices only. -/
theorem State.takeChoice_eq (s : State) :
    s.takeChoice = { s with sched := s.takeChoice.sched, now := s.takeChoice.now, tick := s.takeChoice.tick } := by
  unfold State.takeChoice; split <;> rfl

/-- The choice taken up, where the state lists one. -/
theorem State.takeChoice_cons {s : State} {m : Move} {d : Byte} {rest : List Choice} (h : s.sched = ⟨m, d⟩ :: rest) :
    s.takeChoice = s.chosen m d rest := by
  simp [State.takeChoice, h, State.chosen]

/-- A step by its choice, where the agent is at an instruction. -/
theorem step_turn_instr {s : State} {m : Move} {d : Byte} {rest : List Choice} {i : Instr} (h : Turn s m d rest)
    (hf : (s.chosen m d rest).fetch = some i) : step s = exec i (s.chosen m d rest).accept := by
  have hs := State.takeChoice_cons h.1
  simp only [step, h.2, hs, hf]

/-- A step by its choice, where the agent is at no instruction. -/
theorem step_turn_micro {s : State} {m : Move} {d : Byte} {rest : List Choice} (h : Turn s m d rest)
    (hf : (s.chosen m d rest).fetch = none) : step s = micro (s.chosen m d rest) := by
  have hs := State.takeChoice_cons h.1
  simp only [step, h.2, hs, hf]

/-- The end of an engine call, but for the reply and the read buffer (R265-R268). -/
theorem State.returnCall_call (s : State) (c : Call) (ok : Bool) : (s.returnCall c ok).call = none := by
  unfold State.returnCall State.spoilReadBuf State.replyFor
  cases c.reply <;> cases c.readBuf <;> cases ok <;> rfl

/-- The end of an engine call leaves the sequencer idle. -/
theorem State.returnCall_phase (s : State) (c : Call) (ok : Bool) : (s.returnCall c ok).phase = .IDLE := by
  unfold State.returnCall State.spoilReadBuf State.replyFor
  cases c.reply <;> cases c.readBuf <;> cases ok <;> rfl

/-- The end of an engine call returns `ok`. -/
theorem State.returnCall_ok (s : State) (c : Call) (ok : Bool) : (s.returnCall c ok).eng = { s.eng with ok := ok } := by
  unfold State.returnCall State.spoilReadBuf State.replyFor
  cases c.reply <;> cases c.readBuf <;> cases ok <;> rfl

/-- The end of an engine call writes, besides the call, the phase and the registers, only the Shell's reply, the read buffer
and the counter of free bytes. -/
theorem State.returnCall_frame (s : State) (c : Call) (ok : Bool) :
    ∃ m f sh, s.returnCall c ok
      = { s with call := none, phase := .IDLE, eng := { s.eng with ok := ok }, mem := m, free := f, sh := sh } := by
  unfold State.returnCall State.spoilReadBuf State.replyFor State.startReply State.havoc
  cases c.reply <;> cases c.readBuf <;> cases ok <;> exact ⟨_, _, _, rfl⟩

/-- The read buffer of a failed read chunk, and nothing else, holds free bytes. -/
theorem State.spoilChunk_frame (s : State) : ∃ m f, s.spoilChunk = { s with mem := m, free := f } := by
  unfold State.spoilChunk State.havoc
  split
  · split <;> exact ⟨_, _, rfl⟩
  · exact ⟨_, _, rfl⟩

/-- A failed read chunk spoils its own buffer only, and no other chunk spoils a byte (I8). -/
theorem State.spoilChunk_read (s : State) (x : Nat)
    (h : ∀ t, s.txn = some t → t.dir = .R → s.eng.res = 0 → x < t.buf ∨ t.buf + t.n.toNat ≤ x) :
    s.spoilChunk.mem.read x = s.mem.read x := by
  unfold State.spoilChunk
  split
  · rename_i t ht
    split
    · rename_i hc; exact State.read_havoc_outside _ _ _ _ (h t ht hc.1 hc.2)
    · rfl
  · rfl

/-- What REARM does before its transfer goes on (R42, R220): the sources, the phase, the record, and a failed read's bytes. -/
theorem rearmStep_eq (s : State) :
    ∃ m f, rearmStep s = ({ s.rearmSources with phase := .IDLE, txn := none, mem := m, free := f } : State).chunkDone := by
  obtain ⟨m, f, h⟩ := (s.rearmSources.setPhase .IDLE).spoilChunk_frame
  exact ⟨m, f, by rw [rearmStep, h]; rfl⟩

/-- A POLL step handles a waiting event that is ready, ends where none waits, and else holds (R300, R307). -/
theorem pollStep_cases (s : State) :
    (∃ x ∈ s.readyEvents, pollStep s = handleEvent x { s with usb := { s.usb with events := s.usb.events.remove x } }) ∨
    (s.readyEvents = [] ∧ s.usb.events.any = false ∧ pollStep s = pollEnd s) ∨
    (s.readyEvents = [] ∧ s.usb.events.any = true ∧ pollStep s = s) := by
  unfold pollStep
  cases h : s.chooseEvent with
  | some x => exact .inl ⟨x, List.mem_of_getElem? h, rfl⟩
  | none =>
    have hl : s.readyEvents = [] := by
      by_contra hne
      have hp : 0 < s.readyEvents.length := List.length_pos_iff.mpr hne
      have := Nat.mod_lt s.now.draw.toNat hp
      rw [State.chooseEvent, List.getElem?_eq_none_iff] at h
      omega
    cases he : s.usb.events.any with
    | false => exact .inr (.inl ⟨hl, rfl, by simp⟩)
    | true => exact .inr (.inr ⟨hl, rfl, by simp⟩)

/-- A packet put by a ready event never passes the capacity (R300). -/
theorem State.outRx_ready_fits {s : State} {p : List Byte} (h : UsbEvent.outRx ∈ s.readyEvents) (hp : s.usb.epOut = .Full p) :
    s.ins.count + p.length ≤ s.cfg.capIn := by
  have := (List.mem_filter.mp h).2
  simpa [State.eventReady, hp, ByteStream.fits] using this

/-- What a chunk that returns does to its call: the next chunk is due, or the next transfer begins, or the call returns. -/
theorem State.returnChunk_cases (s : State) (c : Call) (n : Nat) :
    let s1 := { s with eng := { s.eng with total := s.eng.total + s.eng.res.toNat } }
    (n ≤ s.eng.res.toNat ∧ c.off + n < c.cur.len ∧
      s.returnChunk c n = { s1 with call := some { c with off := c.off + n }, phase := .CONFIG }) ∨
    (∃ x, c.next = some x ∧ s1.eng.total = c.cur.len ∧
      s.returnChunk c n = s1.beginXfer { c with cur := x, next := none }) ∨
    (∃ ok, (ok = true ↔ s1.eng.total = c.cur.len ∧ c.next = none) ∧ s.returnChunk c n = s1.returnCall c ok) := by
  intro s1
  unfold State.returnChunk
  by_cases h1 : s.eng.res.toNat < n
  · simp only [h1, if_true]
    right
    unfold State.returnXfer
    split
    · rename_i h; exact .inr ⟨false, by simp; intro h'; exact absurd h' h, rfl⟩
    · rename_i h
      have h' : s1.eng.total = c.cur.len := by simpa using h
      cases hx : c.next with
      | none => exact .inr ⟨true, by simp [h'], rfl⟩
      | some x => exact .inl ⟨x, rfl, h', rfl⟩
  · simp only [h1, if_false]
    by_cases h2 : c.off + n < c.cur.len
    · simp only [h2, if_true]
      exact .inl ⟨by omega, trivial, rfl⟩
    · simp only [h2, if_false]
      right
      unfold State.returnXfer
      split
      · rename_i h; exact .inr ⟨false, by simp; intro h'; exact absurd h' h, rfl⟩
      · rename_i h
        have h' : s1.eng.total = c.cur.len := by simpa using h
        cases hx : c.next with
        | none => exact .inr ⟨true, by simp [h'], rfl⟩
        | some x => exact .inl ⟨x, rfl, h', rfl⟩

/-- A loop step of the Shell, outside an engine call, writes its own fields, the streams and the pending flags. -/
theorem shellLoopStep_frame (s : State) :
    ∃ ins outs usb sh, shellLoopStep s = { s with ins := ins, outs := outs, usb := usb, sh := sh } := by
  unfold shellLoopStep
  split
  · split
    · unfold recvPostStep handleByte State.post
      split <;> (repeat' split) <;> exact ⟨_, _, _, _, rfl⟩
    · exact ⟨_, _, _, _, rfl⟩
  · exact ⟨_, _, _, _, rfl⟩
  · split
    · unfold sendPostStep endDispatch State.post
      simp only
      split <;> exact ⟨_, _, _, _, rfl⟩
    · exact ⟨_, _, _, _, rfl⟩

/-- A pull writes the outbound stream, the IN endpoint and `sending` (R330). -/
theorem State.pull_frame (s : State) : ∃ outs usb, s.pull = { s with outs := outs, usb := usb } := by
  unfold State.pull
  split
  · exact ⟨_, _, rfl⟩
  · simp only
    split <;> exact ⟨_, _, rfl⟩

/-- A step of the servicing task writes the transport's fields and the USB interrupt enable. -/
theorem svcStep_frame (s : State) :
    ∃ ins outs usb irqen, svcStep s = { s with ins := ins, outs := outs, usb := usb, irqen := irqen } := by
  have hp : ∀ x : State, ∃ ins outs usb irqen, x.pull = { x with ins := ins, outs := outs, usb := usb, irqen := irqen } := by
    intro x
    obtain ⟨o, u, h⟩ := x.pull_frame
    exact ⟨x.ins, o, u, x.irqen, h⟩
  unfold svcStep
  split
  · unfold pollStep
    split
    · rename_i x _
      cases x with
      | outRx =>
        simp only [handleEvent, outRxStep]
        split
        · split <;> exact ⟨_, _, _, _, rfl⟩
        · exact ⟨_, _, _, _, rfl⟩
      | inDone =>
        obtain ⟨i, o, u, q, h⟩ := hp { s with usb := { s.usb with events := s.usb.events.remove .inDone } }
        exact ⟨i, o, u, q, h⟩
      | ctrl => exact ⟨_, _, _, _, rfl⟩
    · split <;> exact ⟨_, _, _, _, rfl⟩
  · split
    · unfold recvResumeStep
      simp only
      split <;> exact ⟨_, _, _, _, rfl⟩
    · split
      · unfold sendResumeStep
        simp only
        split
        · exact ⟨_, _, _, _, rfl⟩
        · obtain ⟨i, o, u, q, h⟩ :=
            hp { s with usb := { s.usb with taken := { s.usb.taken with sendResume := false } } }
          exact ⟨i, o, u, q, h⟩
      · exact ⟨_, _, _, _, rfl⟩

end Sys2Proof.Machine
end

