-- ==== Sys2Proof/Laws/PerInstr.lean ====
section
/-!
SUPPORT. Statements per instruction. `EncodingSize`: how many bytes an instruction's encoding has (30_encoding R163, R171; a
request record's length is the model's, log 9).
-/

namespace Sys2Proof

/-- Two characters for each byte (R378). -/
@[simp] theorem hexEncode_length (p : List Byte) : (hexEncode p).length = 2 * p.length := by
  induction p with
  | nil => rfl
  | cons b rest ih => simp only [hexEncode, List.flatMap_cons, List.length_append, List.length_cons] at *; simp; omega

/-- `k` bytes of a natural are `k` bytes. -/
@[simp] theorem natToBytes_length (k v : Nat) : (natToBytes k v).length = k := by
  induction k generalizing v with
  | zero => rfl
  | succ k ih => simp [natToBytes, ih]

/-- Every request record has the same length under one choice of PTR_BITS (log 9). -/
@[simp] theorem requestToBytes_length (p : Params) (r : Request) : (requestToBytes p r).length = Request.byteLength p := by
  simp [requestToBytes, Request.byteLength]
  omega

/-- A well-formed address takes two characters (R164). -/
theorem addrText_length {aa : Option Addr7} (h : wfAddr aa = true) : (addrText aa).length = 2 := by
  cases aa with
  | none => simp [wfAddr] at h
  | some a => simp [addrText]

/-- A well-formed length takes two characters (R163). -/
theorem lenText_length {nn : Option Nat} (h : wfLen nn = true) : (lenText nn).length = 2 := by
  cases nn with
  | none => simp [wfLen] at h
  | some n => rfl

/-- Well-formed data take two characters for each byte of their length (R166). -/
theorem dataText_length {nn : Option Nat} {data : Option (List Byte)} (h : wfData nn data = true) :
    (dataText data).length = 2 * nn.getD 0 := by
  cases nn <;> cases data <;> simp_all [wfData, dataText]

end Sys2Proof

namespace Sys2Proof.Laws.EncodingSize

/-- The characters of a data field, from its length field (R163). -/
def dataDigits (n : Option Nat) : Nat := 2 * n.getD 0

/-- The line lengths of R163's table, for length fields of two digits; the length of the other two encodings. -/
def size (p : Params) : Instr → Nat
  | .ping _ => 4
  | .read _ _ _ => 10
  | .write _ nn _ _ => 12 + dataDigits nn
  | .writeRead _ n1 _ _ _ => 20 + dataDigits n1
  | .writeWrite _ n1 _ n2 _ _ => 22 + dataDigits n1 + dataDigits n2
  | .unrecognized kw => kw.length
  | .transfer _ _ _ _ _ => Request.byteLength p
  | .i2cRead _ _ _ => Request.byteLength p
  | .i2cWrite _ _ _ => Request.byteLength p
  | .i2cWriteRead _ _ _ _ _ => Request.byteLength p
  | .i2cWriteWrite _ _ _ _ _ => Request.byteLength p
  | .chunk _ _ _ _ _ => Request.byteLength p
  | .softReset => Request.byteLength p
  | .reserved => Request.byteLength p
  | .addrW _ => 1
  | .addrR _ => 1

/-- A well-formed instruction's encoding has its size, under every choice of the parameters. -/
def Statement (i : Instr) : Prop := ∀ p : Params, i.wf p = true → (encode p i).length = size p i

theorem ping (extra : Bool) : Statement (.ping extra) := fun _ _ => rfl

theorem read (aa : Option Addr7) (nn : Option Nat) (extra : Bool) : Statement (.read aa nn extra) := by
  intro _ h
  simp only [Instr.wf, Bool.and_eq_true] at h
  simp [encode, lineText, List.intercalate, List.intersperse, size, addrText_length h.1.1, lenText_length h.1.2,
    Keyword.read]

theorem write (aa : Option Addr7) (nn : Option Nat) (data : Option (List Byte)) (extra : Bool) :
    Statement (.write aa nn data extra) := by
  intro _ h
  simp only [Instr.wf, Bool.and_eq_true] at h
  simp [encode, lineText, List.intercalate, List.intersperse, size, dataDigits, addrText_length h.1.1.1,
    lenText_length h.1.1.2, dataText_length h.1.2, Keyword.write]
  omega

theorem writeRead (aa : Option Addr7) (n1 : Option Nat) (data1 : Option (List Byte)) (n2 : Option Nat) (extra : Bool) :
    Statement (.writeRead aa n1 data1 n2 extra) := by
  intro _ h
  simp only [Instr.wf, Bool.and_eq_true] at h
  simp [encode, lineText, List.intercalate, List.intersperse, size, dataDigits, addrText_length h.1.1.1.1,
    lenText_length h.1.1.1.2, dataText_length h.1.1.2, lenText_length h.1.2, Keyword.writeRead, Keyword.write, Keyword.read]
  omega

theorem writeWrite (aa : Option Addr7) (n1 : Option Nat) (data1 : Option (List Byte)) (n2 : Option Nat)
    (data2 : Option (List Byte)) (extra : Bool) : Statement (.writeWrite aa n1 data1 n2 data2 extra) := by
  intro _ h
  simp only [Instr.wf, Bool.and_eq_true] at h
  simp [encode, lineText, List.intercalate, List.intersperse, size, dataDigits, addrText_length h.1.1.1.1.1,
    lenText_length h.1.1.1.1.2, dataText_length h.1.1.1.2, lenText_length h.1.1.2, dataText_length h.1.2,
    Keyword.writeWrite, Keyword.write]
  omega

theorem unrecognized (keyword : List Byte) : Statement (.unrecognized keyword) := by
  intro _ _
  simp [encode, lineText, List.intercalate, size]

theorem transfer (addr : Addr7) (dir : Dir) (buf len : Nat) (cont : Bool) : Statement (.transfer addr dir buf len cont) :=
  fun _ _ => requestToBytes_length _ _

theorem i2cRead (addr : Addr7) (buf len : Nat) : Statement (.i2cRead addr buf len) := fun _ _ => requestToBytes_length _ _

theorem i2cWrite (addr : Addr7) (buf len : Nat) : Statement (.i2cWrite addr buf len) := fun _ _ => requestToBytes_length _ _

theorem i2cWriteRead (addr : Addr7) (buf len buf2 len2 : Nat) : Statement (.i2cWriteRead addr buf len buf2 len2) :=
  fun _ _ => requestToBytes_length _ _

theorem i2cWriteWrite (addr : Addr7) (buf len buf2 len2 : Nat) : Statement (.i2cWriteWrite addr buf len buf2 len2) :=
  fun _ _ => requestToBytes_length _ _

theorem chunk (addr : Addr7) (dir : Dir) (buf n : Nat) (cont : Bool) : Statement (.chunk addr dir buf n cont) :=
  fun _ _ => requestToBytes_length _ _

theorem softReset : Statement .softReset := fun _ _ => requestToBytes_length _ _

theorem reserved : Statement .reserved := fun _ _ => requestToBytes_length _ _

theorem addrW (a : Addr7) : Statement (.addrW a) := fun _ _ => rfl

theorem addrR (a : Addr7) : Statement (.addrR a) := fun _ _ => rfl

end Sys2Proof.Laws.EncodingSize
end

