-- ==== Sys2Proof/Tests/Slice0.lean ====
section
/-!
SUPPORT. Tests. Expected results are written out from the spec's tables and the hand vectors of 95_test_vectors (L1-*, L2-*),
never from the model. The theorems named witness_* show that a statement's hypotheses are met together.
-/

namespace Sys2Proof.Tests

open Sys2Proof Sys2Proof.Machine

/-! ## Helpers -/

/-- The text `PING` of R163 and so on, in ASCII. -/
def txt (cs : List Char) : List Byte := cs.map (fun c => BitVec.ofNat 8 c.toNat)

/-- The next state passes a check. -/
def nextIs (r : Result) (p : State → Bool) : Bool :=
  match r with
  | .next s => p s
  | .fault _ => false
  | .refused _ => false

/-- The step stops for this reason. -/
def refusedBy (r : Result) (x : Refusal) : Bool :=
  match r with
  | .next _ => false
  | .fault _ => false
  | .refused y => y == x

/-- Let the next step be that of one agent, and none be listed after it. -/
def turn (m : Move) (d : Byte) (s : State) : State := { s with sched := [⟨m, d⟩] }

/-- The reset state in a phase, with a chunk's record. -/
def inPhase (p : Phase) (dir : Dir) (n : Byte) : State :=
  { State.reset with phase := p, txn := some ⟨0x50, dir, 128, n.toNat, n, false⟩ }

/-- The reset state with the bus in a state. -/
def onBus (b : Bus) : State := { State.reset with i2c := { I2cp.reset with bus := b } }

/-- A client's two-phase request whose second phase, about to begin, is of length 0. -/
def emptySecond : State :=
  { State.reset with phase := .CONFIG, call := some (callOne 0x50 ⟨.W, 0, 0, false⟩ none .silent) }

/-- The reset state with a token text at the Shell's dispatch. -/
def atLine (t : List Byte) : State :=
  { State.reset with sh := { State.reset.sh with pos := .DISPATCH, line := ⟨t, t.length⟩ } }

/-! ## Well-formed instructions: one ill-formed term for each check -/

theorem test_wf_ping_extra : (Instr.ping true).wf Config.params = false := by decide
theorem test_wf_address_missing : (Instr.read none (some 4) false).wf Config.params = false := by decide
theorem test_wf_address_zero : (Instr.read (some 0) (some 4) false).wf Config.params = false := by decide
theorem test_wf_length_missing : (Instr.read (some 0x50) none false).wf Config.params = false := by decide
theorem test_wf_length_zero : (Instr.read (some 0x50) (some 0) false).wf Config.params = false := by decide
theorem test_wf_length_65 : (Instr.read (some 0x50) (some 65) false).wf Config.params = false := by decide
theorem test_wf_read_extra : (Instr.read (some 0x50) (some 4) true).wf Config.params = false := by decide
theorem test_wf_data_missing : (Instr.write (some 0x50) (some 2) none false).wf Config.params = false := by decide
theorem test_wf_data_wrong_length : (Instr.write (some 0x50) (some 2) (some [0xAA]) false).wf Config.params = false := by decide
theorem test_wf_write_extra : (Instr.write (some 0x50) (some 1) (some [0xAA]) true).wf Config.params = false := by decide
theorem test_wf_second_length : (Instr.writeRead (some 0x50) (some 1) (some [0]) (some 65) false).wf Config.params = false := by decide
theorem test_wf_writeRead_extra : (Instr.writeRead (some 0x50) (some 1) (some [0]) (some 1) true).wf Config.params = false := by decide
theorem test_wf_second_data :
    (Instr.writeWrite (some 0x50) (some 1) (some [0]) (some 2) (some [0]) false).wf Config.params = false := by decide
theorem test_wf_writeWrite_extra :
    (Instr.writeWrite (some 0x50) (some 1) (some [0]) (some 1) (some [0]) true).wf Config.params = false := by decide
theorem test_wf_keyword_is_recognized : (Instr.unrecognized Keyword.ping).wf Config.params = false := by decide
theorem test_wf_empty_token : (Instr.unrecognized []).wf Config.params = false := by decide
theorem test_wf_token_with_space : (Instr.unrecognized [0x41, 0x20]).wf Config.params = false := by decide
theorem test_wf_token_unprintable : (Instr.unrecognized [0x07]).wf Config.params = false := by decide
theorem test_wf_transfer_empty : (Instr.transfer 0x50 .W 0 0 false).wf Config.params = false := by decide
theorem test_wf_buffer_past_top : (Instr.i2cRead 0x50 (2 ^ 32) 1).wf Config.params = false := by decide
theorem test_wf_write_past_top : (Instr.i2cWrite 0x50 1 (2 ^ 32)).wf Config.params = false := by decide
theorem test_wf_second_buffer_empty : (Instr.i2cWriteRead 0x50 0 1 0 0).wf Config.params = false := by decide
theorem test_wf_second_buffer_past_top : (Instr.i2cWriteWrite 0x50 0 1 (2 ^ 32) 1).wf Config.params = false := by decide
theorem test_wf_chunk_256 : (Instr.chunk 0x50 .W 0 256 false).wf Config.params = false := by decide
theorem test_wf_chunk_empty : (Instr.chunk 0x50 .W 0 0 false).wf Config.params = false := by decide

/-! ## Decoding: words written out from the spec's encodings, one for every constructor -/

/-- R163: `PING`. -/
theorem test_decode_ping : decode Config.params .line [0x50, 0x49, 0x4E, 0x47] = .ok (.ping false) := by decide
/-- R163, vector L1-4: `READ 50 04`. -/
theorem test_decode_read :
    decode Config.params .line [0x52, 0x45, 0x41, 0x44, 0x20, 0x35, 0x30, 0x20, 0x30, 0x34]
      = .ok (.read (some 0x50) (some 4) false) := by decide
/-- R163: `WRITE 50 02 aabb`. -/
theorem test_decode_write :
    decode Config.params .line (txt ['W', 'R', 'I', 'T', 'E', ' ', '5', '0', ' ', '0', '2', ' ', 'a', 'a', 'b', 'b'])
      = .ok (.write (some 0x50) (some 2) (some [0xAA, 0xBB]) false) := by decide
/-- R163: `WRITE_READ 50 01 00 04`. -/
theorem test_decode_writeRead :
    decode Config.params .line (txt ['W', 'R', 'I', 'T', 'E', '_', 'R', 'E', 'A', 'D', ' ', '5', '0', ' ', '0', '1', ' ',
        '0', '0', ' ', '0', '4'])
      = .ok (.writeRead (some 0x50) (some 1) (some [0]) (some 4) false) := by decide
/-- R163: `WRITE_WRITE 50 01 10 01 20`. -/
theorem test_decode_writeWrite :
    decode Config.params .line (txt ['W', 'R', 'I', 'T', 'E', '_', 'W', 'R', 'I', 'T', 'E', ' ', '5', '0', ' ', '0', '1', ' ',
        '1', '0', ' ', '0', '1', ' ', '2', '0'])
      = .ok (.writeWrite (some 0x50) (some 1) (some [0x10]) (some 1) (some [0x20]) false) := by decide
/-- R169: keywords are case-sensitive. -/
theorem test_decode_unrecognized : decode Config.params .line (txt ['p', 'i', 'n', 'g']) = .ok (.unrecognized (txt ['p', 'i', 'n', 'g'])) := by
  decide
/-- R174, R175 and log 9's layout: op 0, address 0x50, dir R (bit 7), cont 1, buf 0x0102, len 0x12C. -/
theorem test_decode_transfer :
    decode Config.params .request [0x00, 0xD0, 0x01, 0x02, 0x01, 0, 0, 0x2B, 0x01, 0, 0]
      = .ok (.transfer 0x50 .R 0x0102 300 true) := by decide
theorem test_decode_i2cRead :
    decode Config.params .request [0x01, 0x50, 0, 0x80, 0, 0, 0, 0x03] = .ok (.i2cRead 0x50 128 4) := by decide
theorem test_decode_i2cWrite :
    decode Config.params .request [0x02, 0x50, 0, 0x80, 0, 0, 0, 0x03] = .ok (.i2cWrite 0x50 128 4) := by decide
theorem test_decode_i2cWriteRead :
    decode Config.params .request [0x03, 0x50, 0, 0, 0, 0, 0, 0x01, 0, 0, 0, 0x80, 0, 0, 0, 0x03, 0, 0, 0]
      = .ok (.i2cWriteRead 0x50 0 2 128 4) := by decide
theorem test_decode_i2cWriteWrite :
    decode Config.params .request [0x04, 0x50, 0, 0, 0, 0, 0, 0x01, 0, 0, 0, 0x40, 0, 0, 0, 0x03, 0, 0, 0]
      = .ok (.i2cWriteWrite 0x50 0 2 64 4) := by decide
theorem test_decode_chunk :
    decode Config.params .request [0x05, 0x50, 0x01, 0x80, 0, 0, 0, 0xFE] = .ok (.chunk 0x50 .W 128 255 true) := by decide
theorem test_decode_softReset : decode Config.params .request [0x06] = .ok .softReset := by decide
theorem test_decode_reserved : decode Config.params .request [0x07] = .ok .reserved := by decide
/-- Log 9: with 16-bit pointers a record's address and length take two bytes each. -/
theorem test_decode_short_pointers :
    decode { Config.params with ptrBits := 16 } .request [0x01, 0x50, 0, 0x80, 0x01, 0x03, 0] = .ok (.i2cRead 0x50 384 4) ∧
    (Instr.i2cRead 0x50 (2 ^ 16) 1).wf { Config.params with ptrBits := 16 } = false := by decide
/-- R171: the address 0x50 is 0xA0 on the wire for a write, 0xA1 for a read. -/
theorem test_decode_addrW : decode Config.params .wire [0xA0] = .ok (.addrW 0x50) := by decide
theorem test_decode_addrR : decode Config.params .wire [0xA1] = .ok (.addrR 0x50) := by decide

/-- Bytes that are no instruction are rejected by name (R161, R171, log 9). -/
theorem test_decode_rejects :
    decode Config.params .line [] = .error .emptyLine ∧ decode Config.params .line [0x07] = .error .unprintable ∧
    decode Config.params .request [] = .error .emptyRecord ∧ decode Config.params .request [0x08] = .error .opTooWide ∧
    decode Config.params .request (List.replicate 20 0) = .error .recordTooLong ∧
    decode Config.params .wire [0, 0] = .error .notOneByte := by decide

/-- The opcode table's numbering, first byte in the low bits: `PING` in 32 bits, op 6 in 3 bits, 0xA1 in 8 bits. -/
theorem test_table_words :
    decodeTableWord 32 0x474E4950 = some (.ping false) ∧ decodeTableWord 8 6 = some .softReset ∧
    decodeTableWord 8 0xA1 = some (.addrR 0x50) := by decide

/-! ## The codecs -/

/-- R378: bytes 0x0f and 0xa0 are `0fa0`; R377: upper case and odd lengths fail. -/
theorem test_hex :
    hexEncode [0x0F, 0xA0] = txt ['0', 'f', 'a', '0'] ∧ hexDecode (txt ['0', 'f', 'a', '0']) 2 = some [0x0F, 0xA0] ∧
    hexDecode (txt ['0', 'F']) 1 = none ∧ hexDecode (txt ['0', 'f', 'a']) 1 = none := by decide
/-- R379: `digits_any` takes any count of digits, `digits_2` exactly two. -/
theorem test_dec :
    decDecode .digitsAny (txt ['0', '0', '6', '4']) = some 64 ∧ decDecode .digits2 (txt ['0', '0', '6', '4']) = none ∧
    decDecode .digits2 (txt ['0', '4']) = some 4 ∧ decDecode .digitsAny (txt ['4', 'a']) = none ∧
    decDecode .digitsAny [] = none := by decide
/-- R380: 0xd0 fails under reject and is 0x50 under mask7; address 0 fails, and so does 0x80 under mask7. -/
theorem test_addr :
    addrDecode .reject (txt ['d', '0']) = none ∧ addrDecode .mask7 (txt ['d', '0']) = some 0x50 ∧
    addrDecode .reject (txt ['0', '0']) = none ∧ addrDecode .mask7 (txt ['8', '0']) = none ∧
    addrDecode .reject (txt ['7', 'f']) = some 0x7F := by decide
/-- R162: two spaces are one separator under collapse, and an empty token under single. -/
theorem test_tokens :
    tokens .collapse (txt ['A', ' ', ' ', 'B', ' ']) = [[0x41], [0x42]] ∧
    tokens .single (txt ['A', ' ', ' ', 'B', ' ']) = [[0x41], [], [0x42], []] := by decide

/-! ## One step -/

/-- R383: PING replies `OK` and CR LF. -/
theorem test_ping_replies :
    nextIs (step (turn .shell 0 (atLine (txt ['P', 'I', 'N', 'G']))))
      (fun s => s.sh.pos == .REPLYING && s.sh.sendRest == [0x4F, 0x4B, 0x0D, 0x0A]) = true := by decide
/-- R382, R384: READ of length 65 replies `ERROR` and makes no engine request. -/
theorem test_read_65_is_malformed :
    nextIs (exec (.read (some 0x50) (some 65) false) State.reset)
      (fun s => s.sh.sendRest == [0x45, 0x52, 0x52, 0x4F, 0x52, 0x0D, 0x0A] && s.call == none) = true := by decide
/-- R384: READ begins a read of n bytes into rbuf. -/
theorem test_read_begins :
    nextIs (exec (.read (some 0x50) (some 64) false) State.reset)
      (fun s => s.phase == .CONFIG && s.call.map Call.cur == some ⟨.R, 128, 64, false⟩) = true := by decide
/-- R385: WRITE puts its data into wbuf1. -/
theorem test_write_fills_buffer :
    nextIs (exec (.write (some 0x50) (some 2) (some [0xAA, 0xBB]) false) State.reset)
      (fun s => s.mem.readN 0 3 == [0xAA, 0xBB, 0] && s.call.map Call.cur == some ⟨.W, 0, 2, false⟩) = true := by decide
/-- R386, R270: the write phase of WRITE_READ continues without stop. -/
theorem test_writeRead_begins :
    nextIs (exec (.writeRead (some 0x50) (some 1) (some [7]) (some 4) false) State.reset)
      (fun s => s.call.map Call.cur == some ⟨.W, 0, 1, true⟩ && s.call.bind Call.next == some ⟨.R, 128, 4, false⟩) = true := by
  decide
/-- R387: WRITE_WRITE puts its two data fields into wbuf1 and wbuf2. -/
theorem test_writeWrite_begins :
    nextIs (exec (.writeWrite (some 0x50) (some 1) (some [7]) (some 1) (some [8]) false) State.reset)
      (fun s => s.mem.read 0 == 7 && s.mem.read 64 == 8 && s.call.bind Call.next == some ⟨.W, 64, 1, false⟩) = true := by decide
/-- R388. -/
theorem test_unrecognized_replies_error :
    nextIs (exec (.unrecognized [0x41]) State.reset)
      (fun s => s.sh.sendRest == [0x45, 0x52, 0x52, 0x4F, 0x52, 0x0D, 0x0A] && s.eng.cause == .MALFORMED) = true := by decide
/-- R264(a), (b): no byte, and one byte past the top. -/
theorem test_transfer_refused :
    refusedBy (exec (.transfer 0x50 .W 0 0 false) State.reset) .zeroLength = true ∧
    refusedBy (exec (.transfer 0x50 .W (2 ^ 32) 1 false) State.reset) .bufferWraps = true := by decide
/-- R261: a transfer of 256 bytes has a first chunk of 255 that continues. -/
theorem test_transfer_splits :
    nextIs (exec (.transfer 0x50 .W 0 256 false) State.reset)
      (fun s => s.call.map (Call.dueChunk s.cfg) == some (.chunk 0x50 .W 0 255 true)) = true := by decide
/-- R264(c). -/
theorem test_concurrent_call_refused :
    refusedBy (exec (.i2cRead 0x50 0 1) { State.reset with phase := .CONFIG }) .concurrentCall = true := by decide
/-- R264(b) for the second buffer. -/
theorem test_second_buffer_refused :
    refusedBy (exec (.i2cWriteRead 0x50 0 1 (2 ^ 32 - 1) 2) State.reset) .bufferWraps = true := by decide
/-- R268, R264(a), log 34: a second length of 0 does not keep the first phase from beginning; it is refused at its CONFIG. -/
theorem test_second_length_zero :
    nextIs (exec (.i2cWriteWrite 0x50 0 1 0 0) State.reset) (fun s => s.call.map Call.cur == some ⟨.W, 0, 1, true⟩) = true ∧
    refusedBy (step (turn .shell 0 emptySecond)) .zeroLength = true := by decide
/-- R175: op 5, 6 from an engine client, and op 7. -/
theorem test_internal_ops_refused :
    refusedBy (step (turn .client 0 { State.reset with client := some ⟨5, 0x50, .W, false, 0, 1, 0, 1⟩ })) .internalOp = true ∧
    refusedBy (step (turn .client 0 { State.reset with client := some ⟨6, 0x50, .W, false, 0, 1, 0, 1⟩ })) .internalOp = true ∧
    refusedBy (step (turn .client 0 { State.reset with client := some ⟨7, 0x50, .W, false, 0, 1, 0, 1⟩ })) .reservedOp = true := by
  decide
/-- R201: the peripheral's registers after CONFIG. -/
theorem test_chunk_configures :
    nextIs (exec (.chunk 0x50 .R 128 4 false) State.reset)
      (fun s => s.i2c.sadd == 0x50 && s.i2c.rdWrn && s.i2c.nbytes == 4 && s.phase == .ARM) = true := by decide
/-- R221. -/
theorem test_softReset_disables :
    nextIs (exec .softReset { State.reset with phase := .RST_DIS }) (fun s => !s.i2c.pe && s.i2c.peActive) = true := by decide
/-- R208: ACK, then NACK. -/
theorem test_addrW_ack :
    nextIs (step (turn .pAddr 0 (onBus (.Addr 0x50 .W 4))))
      (fun s => s.trace == [.ADDR 0x50 .W .ACK] && s.i2c.bus == .Data 0x50 .W 0 4) = true := by decide
theorem test_addrR_nack :
    nextIs (step (turn .pAddr 1 (onBus (.Addr 0x50 .R 4))))
      (fun s => s.trace == [.ADDR 0x50 .R .NACK, .STOP] && s.i2c.nackf && s.i2c.stopf && s.i2c.bus == .Idle) = true := by decide
/-- A configuration the spec refuses (R311, D27). -/
theorem test_bad_configurations_refused :
    refusedBy (step { State.reset with cfg := { Config.params with capIn := 63 } }) .capInLtMps = true ∧
    refusedBy (step { State.reset with cfg := { Config.params with capOut := 0 } }) .capOutZero = true := by decide
/-- A placed word is what the next step runs: `PING`, op 6, the address byte 0xA0. -/
theorem test_withFetchWord :
    nextIs (step (State.reset.withFetchWord 32 0x474E4950)) (fun s => s.sh.pos == .REPLYING) = true ∧
    nextIs (step (State.reset.withFetchWord 8 6)) (fun s => s.phase == .RST_WAIT) = true ∧
    nextIs (step (State.reset.withFetchWord 8 0xA0)) (fun s => s.trace == [.ADDR 0x50 .W .ACK]) = true := by decide
/-- R222: the bus is released where it was not idle. -/
theorem test_disable_releases :
    (pDisableStep { State.reset with i2c := { I2cp.reset with pe := false, bus := .Held, txe := false } }).trace = [.RELEASE] := by
  decide
/-- R161, R371: CR after an empty line is no line. -/
theorem test_empty_line_ignored : (handleByte 0x0D State.reset).sh.pos = .READING := by decide

/-- R371-R373, R540: two lines, an empty one between them, an unprintable byte and one past LINE_CAP dropped; the rest stays. -/
theorem test_assemble :
    completeLines 4 (txt ['P', 'I', '\x01', 'N', 'G', '!', '\r', '\n', 'f', '\n', 'R', 'E']) = [txt ['P', 'I', 'N', 'G'], txt ['f']] ∧
    unterminated 4 (txt ['P', 'I', 'N', 'G', '\r', '\n', 'R', 'E']) = txt ['R', 'E'] := by decide
/-- R383, R389, R540: a `PING` is answered by `OK`, and by no other text. -/
theorem test_ping_replies_in_order :
    nextIs (step (turn .shell 0 (atLine Keyword.ping))) (fun u =>
      decide (RepliesAt (atLine Keyword.ping) u Keyword.ping [0x4F, 0x4B, 0x0D, 0x0A]) &&
      decide (¬ RepliesAt (atLine Keyword.ping) u Keyword.ping [0x45, 0x52, 0x52, 0x4F, 0x52, 0x0D, 0x0A])) = true := by decide

/-! ## Witnesses: the hypotheses of each statement are met together -/

theorem witness_DecodeAfterEncode :
    (∀ i ∈ [Instr.ping false, .read (some 0x7F) (some 64) false, .write (some 1) (some 1) (some [0xFF]) false,
      .writeRead (some 1) (some 1) (some [0]) (some 64) false, .writeWrite (some 1) (some 1) (some [0]) (some 1) (some [0]) false,
      .unrecognized [0x7E], .transfer 0 .R 0 (2 ^ 32) true, .i2cRead 0x7F (2 ^ 32 - 1) 1, .i2cWrite 0 0 1,
      .i2cWriteRead 0 0 1 (2 ^ 32 - 1) 1, .i2cWriteWrite 0 0 1 0 (2 ^ 32), .chunk 0 .W 0 255 false, .softReset, .reserved,
      .addrW 0x7F, .addrR 0], i.WellFormed Config.params) := by decide

theorem witness_DecodeAfterEncode_pointers :
    ∀ k ∈ [0, 1, 9, 64], (Instr.i2cWrite 0 (2 ^ k - 1) 1).WellFormed { Config.params with ptrBits := k } := by decide

theorem witness_HexRoundTrip :
    (txt ['0', '9', 'a', 'f']).length % 2 = 0 ∧ (∀ c ∈ txt ['0', '9', 'a', 'f'], hexDigit c ≠ none) := by decide

theorem witness_HexDecodeFailsExactly :
    hexDecode (txt ['0', '9', 'a', 'f']) 2 = some [0x09, 0xAF] ∧ hexDecode [] 0 = some [] := by decide

/-- A missing token, a malformed one, an extra one, no token at all, and an empty first one. -/
theorem witness_TokensSplitAtSpaces :
    tokens .collapse (txt ['R', 'E', 'A', 'D', ' ', 'g', '0']) = Keyword.read :: [txt ['g', '0']] ∧
    tokens .collapse (txt ['P', 'I', 'N', 'G', ' ', 'x']) = Keyword.ping :: [txt ['x']] ∧
    tokens .collapse (txt [' ', ' ']) = [] ∧ tokens .single (txt [' ', 'P']) = [] :: [txt ['P']] := by decide

/-- `FOO`, a line of spaces, and an empty first token under single. -/
theorem witness_UnrecognizedRepliesError :
    (∀ l ∈ [[0x46, 0x4F, 0x4F], [0x20, 0x20]], ∀ kw ∈ (tokens State.reset.cfg.tokenize l).head?, kw ∉ Keyword.all) ∧
    (∀ kw ∈ (tokens .single [0x20, 0x50]).head?, kw ∉ Keyword.all) := by decide

theorem witness_StepRunsInstruction :
    (Turn (turn .shell 0 (atLine [0x41])) .shell 0 [] ∧ (atLine [0x41]).phase = .IDLE ∧ (atLine [0x41]).sh.pos = .DISPATCH) ∧
    (Turn (turn .shell 0 { State.reset with phase := .CONFIG, call := some (callOne 0 ⟨.W, 0, 1, false⟩ none .silent) })
      .shell 0 [] ∧
      ({ State.reset with phase := .CONFIG, call := some (callOne 0 ⟨.W, 0, 1, false⟩ none .silent) } : State).call
        = some (callOne 0 ⟨.W, 0, 1, false⟩ none .silent)) ∧
    (Turn (turn .shell 0 (inPhase .RST_DIS .W 1)) .shell 0 [] ∧ (inPhase .RST_DIS .W 1).phase = .RST_DIS) ∧
    (Turn (turn .client 0 { State.reset with client := some ⟨7, 0, .W, false, 0, 1, 0, 1⟩ }) .client 0 []) ∧
    (Turn (turn .pAddr 0 (onBus (.Addr 0x7F .W 1))) .pAddr 0 [] ∧ (onBus (.Addr 0x7F .W 1)).i2c.bus = .Addr 0x7F .W 1) ∧
    (Turn (turn .pAddr 0 (onBus (.Addr 0 .R 255))) .pAddr 0 [] ∧ (onBus (.Addr 0 .R 255)).i2c.bus = .Addr 0 .R 255) := by
  decide

theorem witness_PingReplies :
    (¬ (false = true ∧ State.reset.cfg.extraTokens = .reject)) ∧ (true = true ∧ State.reset.cfg.extraTokens = .reject) := by
  decide

theorem witness_MalformedLineNeverCallsEngine :
    (∀ i ∈ [Instr.ping true, .read (some 0) (some 1) false, .write (some 1) (some 65) (some []) false,
      .writeRead (some 1) (some 1) none (some 1) false, .writeWrite (some 1) (some 1) (some [0]) (some 1) (some []) false,
      .unrecognized []], i.form = .line ∧ lineChecks State.reset.cfg i = false) ∧
    (∀ x ∈ [64, 128], rejectedMayWrite State.reset.cfg (.write none none none false) x = false) ∧
    rejectedMayWrite State.reset.cfg (.read none none false) 0 = false ∧
    rejectedMayWrite State.reset.cfg (.writeWrite none none none none none false) 128 = false := by decide

theorem witness_ReadMakesItsRequest :
    (∀ n ∈ [1, 64], lineChecks State.reset.cfg (.read (some 0x7F) (some n) false) = true ∧
      State.reset.cfg.rbuf + n ≤ memTop State.reset.cfg) ∧ State.reset.inFlight = false := by decide

theorem witness_WriteMakesItsRequest :
    lineChecks State.reset.cfg (.write (some 1) (some 2) (some [0, 0xFF]) false) = true ∧
    State.reset.cfg.wbuf1 + 2 ≤ memTop State.reset.cfg ∧ State.reset.inFlight = false ∧
    (2 < State.reset.cfg.wbuf1 ∨ State.reset.cfg.wbuf1 + 2 ≤ 2) := by decide

theorem witness_WriteReadMakesItsRequest :
    lineChecks State.reset.cfg (.writeRead (some 1) (some 1) (some [5]) (some 64) false) = true ∧
    State.reset.cfg.wbuf1 + 1 ≤ memTop State.reset.cfg ∧ State.reset.cfg.rbuf + 64 ≤ memTop State.reset.cfg ∧
    State.reset.inFlight = false ∧ (1 < State.reset.cfg.wbuf1 ∨ State.reset.cfg.wbuf1 + 1 ≤ 1) := by decide

theorem witness_WriteWriteMakesItsRequest :
    lineChecks State.reset.cfg (.writeWrite (some 1) (some 1) (some [5]) (some 1) (some [6]) false) = true ∧
    State.reset.cfg.wbuf1 + 1 ≤ memTop State.reset.cfg ∧ State.reset.cfg.wbuf2 + 1 ≤ memTop State.reset.cfg ∧
    (State.reset.cfg.wbuf1 + 1 ≤ State.reset.cfg.wbuf2 ∨ State.reset.cfg.wbuf2 + 1 ≤ State.reset.cfg.wbuf1) ∧
    State.reset.inFlight = false ∧ (65 < State.reset.cfg.wbuf1 ∨ State.reset.cfg.wbuf1 + 1 ≤ 65) ∧
    (65 < State.reset.cfg.wbuf2 ∨ State.reset.cfg.wbuf2 + 1 ≤ 65) := by decide

theorem witness_EveryLineIsAnswered : ParamsOk State.reset.cfg ∧ State.reset.inFlight = false := by decide

theorem witness_TransferBegins :
    (∀ len ∈ [1, 255, 256, 2 ^ 32], 1 ≤ len ∧ 0 + len ≤ memTop State.reset.cfg) ∧ State.reset.inFlight = false := by decide

theorem witness_ComposedCallsBegin :
    1 ≤ 1 ∧ (2 ^ 32 - 1) + 1 ≤ memTop State.reset.cfg ∧ State.reset.inFlight = false ∧
    (∀ n ∈ [0, 2 ^ 32], 0 + n ≤ memTop State.reset.cfg) := by decide

theorem witness_BadRequestsRefused :
    (1 ≤ 1 ∧ memTop State.reset.cfg < 2 ^ 32 + 1) ∧
    (1 ≤ 1 ∧ 0 + 1 ≤ memTop State.reset.cfg ∧ ({ State.reset with phase := .WAIT } : State).inFlight = true) ∧
    (memTop State.reset.cfg < 2 ^ 32 + 1 ∧ 2 ^ 32 + 0 ≤ memTop State.reset.cfg) ∧
    (Turn (turn .shell 0 emptySecond) .shell 0 [] ∧ emptySecond.phase = .CONFIG ∧
      ∀ c ∈ emptySecond.call, c.cur.len = 0) ∧ emptySecond.call.isSome = true := by decide

theorem witness_ReservedAndInternalOpsRefused : (turn .client 0 State.reset).takeChoice.now.move = .client := by decide

theorem witness_ChunkConfigures :
    State.reset.now.move ≠ .client ∧ (∀ n ∈ [1, 255], 1 ≤ n ∧ n ≤ 255 ∧ 128 + n ≤ memTop State.reset.cfg) ∧
    (State.reset.phase = .IDLE ∨ State.reset.phase = .CONFIG) := by decide

theorem witness_SoftResetDisables : State.reset.now.move ≠ .client := by decide

theorem witness_SoftResetRestoresPeripheral :
    configRefusal (inPhase .RST_DIS .W 1).cfg = none ∧ (inPhase .RST_DIS .W 1).phase = .RST_DIS ∧
    (inPhase .RST_DIS .W 1).i2c.peActive = true ∧
    ({ inPhase .RST_DIS .W 1 with
      sched := [⟨.shell, 0⟩, ⟨.shell, 0⟩, ⟨.pDisable, 1⟩, ⟨.shell, 0⟩, ⟨.shell, 0⟩] } : State).sched
      = [⟨.shell, 0⟩, ⟨.shell, 0⟩, ⟨.pDisable, 1⟩, ⟨.shell, 0⟩, ⟨.shell, 0⟩] ++ [] := by decide

theorem witness_AddressByteAnswered :
    (onBus (.Addr 0x50 .R 4)).i2c.bus = .Addr 0x50 .R 4 ∧ (onBus (.Addr 0x50 .R 4)).i2c.peActive = true ∧
    (onBus (.Addr 0x50 .R 4)).i2c.stalled = false ∧ (onBus (.Addr 0x50 .R 4)).now.draw.getLsbD 0 = false ∧
    ((onBus (.Addr 0x50 .R 4)).chosen .pAddr 1 []).now.draw.getLsbD 0 = true := by decide

theorem witness_OpeningSteps :
    (∀ p ∈ [Phase.ARM, .DRAIN, .ENDMA, .START], ∀ d ∈ [Dir.W, .R],
      Turn (turn .shell 0 (inPhase p d 255)) .shell 0 [] ∧ (inPhase p d 255).phase = p ∧
      (inPhase p d 255).txn = some ⟨0x50, d, 128, 255, 255, false⟩) := by decide

theorem witness_WaitEndsBySignalOrTimeout :
    (inPhase .WAIT .W 1).phase = .WAIT ∧
    (Turn (turn .shell 0 { inPhase .WAIT .W 1 with sem := true }) .shell 0 [] ∧
      ({ inPhase .WAIT .W 1 with sem := true } : State).sem = true) ∧
    (Turn (turn .shell 0 (inPhase .WAIT .W 1)) .shell 0 [] ∧ (inPhase .WAIT .W 1).sem = false) ∧
    (Turn (turn .timer 0 (inPhase .WAIT .W 1)) .timer 0 [] ∧ TimeoutMayFire (turn .timer 0 (inPhase .WAIT .W 1))) ∧
    (Turn (turn .timer 0 { inPhase .WAIT .W 1 with sem := true }) .timer 0 [] ∧
      ¬ TimeoutMayFire (turn .timer 0 { inPhase .WAIT .W 1 with sem := true })) := by
  unfold TimeoutMayFire; decide

/-- The phase EVAL with the flags that decide the outcome. -/
def evalAt (timedOut nackf tcif teif : Bool) : State :=
  turn .shell 0 { inPhase .EVAL .R 4 with
    eng := { State.reset.eng with timedOut := timedOut }
    i2c := { I2cp.reset with nackf := nackf }
    rx := { Dma.reset with tcif := tcif, teif := teif } }

theorem witness_EvaluationOutcome :
    (∀ a b c d : Bool, Turn (evalAt a b c d) .shell 0 [] ∧ (evalAt a b c d).phase = .EVAL ∧
      (evalAt a b c d).txn = some ⟨0x50, .R, 128, 4, 4, false⟩ ∧ (evalAt a b c d).eng.timedOut = a ∧
      (evalAt a b c d).i2c.nackf = b ∧ ((evalAt a b c d).chan .R).tcif = c ∧ ((evalAt a b c d).chan .R).teif = d) := by decide

theorem witness_SettleSteps :
    (Turn (turn .shell 0 (inPhase .STOPREQ .W 4)) .shell 0 [] ∧ (inPhase .STOPREQ .W 4).phase = .STOPREQ ∧
      (inPhase .STOPREQ .W 4).eng.timedOut = false) ∧
    (({ inPhase .STOPREQ .W 4 with eng := { State.reset.eng with timedOut := true } } : State).eng.timedOut = true) ∧
    (∀ d ∈ [Dir.W, .R], Turn (turn .shell 0 (inPhase .DMAOFF d 4)) .shell 0 [] ∧ (inPhase .DMAOFF d 4).phase = .DMAOFF ∧
      (inPhase .DMAOFF d 4).txn = some ⟨0x50, d, 128, 4, 4, false⟩) := by decide

/-- The phase REARM of a read chunk at an offset of a transfer of 256 bytes, its result, what is to come, the reply owed. -/
def rearmAt (off : Nat) (n res : Byte) (next : Option Xfer) (reply : Reply) : State :=
  turn .shell 0 { inPhase .REARM .R n with
    call := some ⟨0x50, ⟨.R, 128, 256, false⟩, off, next, some (128, 256), reply⟩
    eng := { State.reset.eng with res := res, total := off } }

/-- A full chunk that is not the last, a full last one with and without a phase to come, and a failed one. -/
theorem witness_RearmReturnsToTransfer :
    (∀ r ∈ [Reply.silent, .ok, .data 4],
      ∀ s ∈ [rearmAt 0 255 255 none r, rearmAt 255 1 1 none r, rearmAt 255 1 1 (some ⟨.R, 0, 1, false⟩) r,
        rearmAt 0 255 0 (some ⟨.R, 0, 1, false⟩) r, rearmAt 255 1 0 none r],
      Turn s .shell 0 [] ∧ s.phase = .REARM ∧ s.call.isSome ∧
      ∀ c ∈ s.call, c.off < c.cur.len ∧ s.eng.total = c.off ∧
        (s.eng.res = BitVec.ofNat 8 (min 255 (c.cur.len - c.off)) ∨ s.eng.res = 0)) ∧
    (inPhase .REARM .W 1).call = none ∧ (inPhase .REARM .W 1).phase = .REARM := by decide

/-- A byte outside both read buffers, and one outside them where the chunk is a write. -/
theorem witness_RearmReturnsToTransfer_memory :
    ¬ FreeAfterFailure (rearmAt 255 1 0 none .ok) 127 ∧ ¬ FreeAfterFailure (inPhase .REARM .W 1) 128 := by
  constructor
  · rintro (⟨t, ht, _, h1, h2⟩ | ⟨c, b, len, hc, hb, h1, h2⟩)
    · simp only [rearmAt, turn, inPhase, Option.some.injEq] at ht; subst ht; simp at h1
    · simp only [rearmAt, turn, inPhase, Option.some.injEq] at hc; subst hc
      simp only [Option.some.injEq, Prod.mk.injEq] at hb; omega
  · rintro (⟨t, ht, hd, _⟩ | ⟨c, b, len, hc, _⟩)
    · simp only [inPhase, Option.some.injEq] at ht; subst ht; simp at hd
    · simp [inPhase, State.reset] at hc

/-- R42: the record is discarded when its chunk is over. -/
theorem test_rearm_discards_record :
    nextIs (step (rearmAt 0 255 255 none .silent)) (fun s => s.txn == none && s.phase == .CONFIG) = true := by decide
/-- R391, R384: a failed READ replies `ERROR`. -/
theorem test_failed_read_replies_error :
    nextIs (step (rearmAt 255 1 0 none (.data 1))) (fun s => s.sh.sendRest == [0x45, 0x52, 0x52, 0x4F, 0x52, 0x0D, 0x0A]) = true := by
  rfl
/-- R42, 93 I10: ARM, before a record exists, is refused. -/
theorem test_unwritten_record_refused :
    refusedBy (step (turn .shell 0 { State.reset with phase := .ARM })) .txnUnwritten = true := by decide

theorem witness_GreedySplit :
    (∀ j ∈ [0, 1], ∀ len ∈ [256, 510], (callOne 0x50 ⟨.W, 0, len, false⟩ none .silent).off = 255 * 0 ∧ 255 * j < len ∧
      0 + len ≤ memTop Config.params) := by decide

/-- A peripheral whose start or stop condition is requested. -/
def requested (start stop : Bool) (b : Bus) (txe rxne : Bool) : State :=
  { State.reset with i2c := { I2cp.reset with start := start, stop := stop, bus := b, txe := txe, rxne := rxne } }

theorem witness_StartCondition :
    (∀ b ∈ [Bus.Idle, .Held], ∀ st : Bool, Turn (turn .pStart 0 (requested true st b true false)) .pStart 0 [] ∧
      (requested true st b true false).i2c.peActive = true ∧ (requested true st b true false).i2c.stalled = false ∧
      (requested true st b true false).i2c.start = true ∧ (requested true st b true false).i2c.stop = st ∧
      ((requested true st b true false).i2c.bus = .Idle ∨ (requested true st b true false).i2c.bus = .Held)) := by decide

theorem witness_WrittenByte :
    (∀ e : Bool, ∀ d ∈ [(0 : Byte), 1], ∀ i ∈ [0, 3],
      Turn (turn .pWbyte d (requested false false (.Data 0x50 .W i 4) e false)) .pWbyte d [] ∧
      (requested false false (.Data 0x50 .W i 4) e false).i2c.peActive = true ∧
      (requested false false (.Data 0x50 .W i 4) e false).i2c.stalled = false ∧
      (requested false false (.Data 0x50 .W i 4) e false).i2c.bus = .Data 0x50 .W i 4 ∧
      (requested false false (.Data 0x50 .W i 4) e false).i2c.txe = e ∧ d.getLsbD 0 = decide (d = 1)) := by decide

theorem witness_ReadByte :
    (∀ r : Bool, ∀ i ∈ [0, 3], Turn (turn .pRbyte 0xFF (requested false false (.Data 0x50 .R i 4) true r)) .pRbyte 0xFF [] ∧
      (requested false false (.Data 0x50 .R i 4) true r).i2c.peActive = true ∧
      (requested false false (.Data 0x50 .R i 4) true r).i2c.stalled = false ∧
      (requested false false (.Data 0x50 .R i 4) true r).i2c.bus = .Data 0x50 .R i 4 ∧
      (requested false false (.Data 0x50 .R i 4) true r).i2c.rxne = r) := by decide

theorem witness_StopCondition :
    (∀ b ∈ [Bus.Idle, .Held, .Data 0x50 .W 1 4, .Data 0x50 .R 1 4], ∀ e : Bool,
      Turn (turn .pStop 0 (requested false true b e true)) .pStop 0 [] ∧ (requested false true b e true).i2c.peActive = true ∧
      (requested false true b e true).i2c.stalled = false ∧ (requested false true b e true).i2c.stop = true ∧
      (requested false true b e true).i2c.bus = b ∧ (requested false true b e true).i2c.txe = e ∧
      (requested false true b e true).i2c.rxne = true) := by decide

/-- A channel ready to move its next byte. -/
def moving (left : Byte) (cmar : Nat) : State :=
  { requested false false (.Data 0x50 .W 0 4) true true with
    tx := ⟨cmar, left, true, false, false⟩, rx := ⟨cmar, left, true, false, false⟩ }

theorem witness_DmaTxMovesOneByte :
    (∀ d ∈ [(0 : Byte), 1], ∀ left ∈ [(1 : Byte), 255], ∀ a ∈ [0, 2 ^ 32 - 1], Turn (turn .dmaTx d (moving left a)) .dmaTx d [] ∧
      (moving left a).tx.en = true ∧ (moving left a).tx.cndtr ≠ 0 ∧ (moving left a).i2c.txe = true ∧
      (moving left a).i2c.bus = .Data 0x50 .W 0 4 ∧ (moving left a).tx.cmar < memTop (moving left a).cfg ∧
      d.getLsbD 0 = decide (d = 1)) := by decide

theorem witness_DmaRxMovesOneByte :
    (∀ d ∈ [(0 : Byte), 1], ∀ left ∈ [(1 : Byte), 255], ∀ a ∈ [0, 2 ^ 32 - 1], Turn (turn .dmaRx d (moving left a)) .dmaRx d [] ∧
      (moving left a).rx.en = true ∧ (moving left a).rx.cndtr ≠ 0 ∧ (moving left a).i2c.rxne = true ∧
      (moving left a).rx.cmar < memTop (moving left a).cfg ∧ d.getLsbD 0 = decide (d = 1)) := by decide

/-- Every interrupt condition holds and every source is enabled. -/
def allPending : State :=
  { State.reset with
    i2c := { I2cp.reset with nackf := true, berr := true }
    tx := { Dma.reset with tcif := true }
    rx := { Dma.reset with teif := true }
    usb := { State.reset.usb with events := ⟨false, false, true⟩ } }

theorem witness_HandlerEffects :
    (∀ m ∈ handlerMoves, Turn (turn m 0 allPending) m 0 []) ∧
    (allPending.i2c.nackf = true ∧ allPending.irqen.ev = true) ∧ (allPending.i2c.berr = true ∧ allPending.irqen.er = true) ∧
    ((allPending.tx.tcif = true ∨ allPending.tx.teif = true) ∧ allPending.irqen.dtx = true) ∧
    ((allPending.rx.tcif = true ∨ allPending.rx.teif = true) ∧ allPending.irqen.drx = true) ∧
    ((allPending.usb.events.outRx = true ∨ allPending.usb.events.inDone = true ∨ allPending.usb.events.ctrl = true) ∧
      allPending.irqen.usb = true) := by decide

theorem witness_HandlersCommute :
    configRefusal allPending.cfg = none ∧ (∀ m ∈ handlerMoves, allPending.enabled m = true) ∧
    Move.isrI2cEv ∈ handlerMoves ∧ Move.isrDmaTx ∈ handlerMoves ∧ Move.isrI2cEv ≠ Move.isrDmaTx ∧
    (Move.isrI2cEv ≠ .isrI2cEr ∧ Move.isrI2cEv ≠ .isrUsb) := by decide

theorem witness_StreamIsFifo :
    StreamOk 4 ⟨[1, 2, 3, 4], 1, 3, 2⟩ ∧ (⟨[1, 2, 3, 4], 1, 3, 2⟩ : ByteStream).count + [5, 6].length ≤ 4 ∧
    2 ≤ (⟨[1, 2, 3, 4], 1, 3, 2⟩ : ByteStream).count := by decide

/-- A small transport, so that its streams are short: MPS 2, capacities 2 and 4. -/
def small : State :=
  { State.reset with
    cfg := { Config.params with mps := 2, capIn := 2, capOut := 4 }
    ins := ByteStream.reset 2, outs := ⟨[1, 2, 3, 0], 3, 0, 3⟩ }

/-- The servicing task has taken the flags `f`. -/
def taken (f : Pending) (s : State) : State := turn .usbSvc 0 { s with usb := { s.usb with taken := f } }

/-- The events waiting are `e`. -/
def waiting (e : Events) (s : State) : State := { s with usb := { s.usb with events := e } }

/-- The outbound stream with three bytes, none, and one; the IN endpoint busy; a send in progress. -/
def outStates : List State :=
  [small, { small with outs := ByteStream.reset 4 }, { small with outs := ⟨[1, 2, 3, 4], 2, 1, 1⟩ },
    { small with usb := { small.usb with epIn := .Busy [1, 2] } }, { small with usb := { small.usb with sending := true } }]

theorem witness_PullQueuesPacket :
    ∀ s ∈ outStates, Turn (taken ⟨false, false, true⟩ s) .usbSvc 0 [] ∧ TransportOk (taken ⟨false, false, true⟩ s) ∧
      (taken ⟨false, false, true⟩ s).usb.taken = ⟨false, false, true⟩ := by decide

theorem witness_PullQueuesPacket_inDone :
    ∀ s ∈ outStates, Turn (taken ⟨true, false, false⟩ (waiting ⟨false, true, false⟩ s)) .usbSvc 0 [] ∧
      TransportOk (taken ⟨true, false, false⟩ (waiting ⟨false, true, false⟩ s)) ∧
      (taken ⟨true, false, false⟩ (waiting ⟨false, true, false⟩ s)).usb.taken.poll = true ∧
      (taken ⟨true, false, false⟩ (waiting ⟨false, true, false⟩ s)).usb.events = ⟨false, true, false⟩ := by decide

theorem witness_PullQueuesPacket_ctrl :
    Turn (taken ⟨true, false, false⟩ (waiting ⟨false, false, true⟩ small)) .usbSvc 0 [] ∧
    TransportOk (taken ⟨true, false, false⟩ (waiting ⟨false, false, true⟩ small)) ∧
    (taken ⟨true, false, false⟩ (waiting ⟨false, false, true⟩ small)).usb.taken.poll = true ∧
    (taken ⟨true, false, false⟩ (waiting ⟨false, false, true⟩ small)).usb.events = ⟨false, false, true⟩ := by decide

/-- Two events wait with the IN_DONE, and two with the CTRL. -/
theorem witness_PullQueuesPacket_several :
    ∀ e ∈ [(⟨true, true, true⟩ : Events), ⟨false, true, true⟩],
      Turn (taken ⟨true, false, false⟩ (waiting e small)) .usbSvc 0 [] ∧ TransportOk (taken ⟨true, false, false⟩ (waiting e small)) ∧
      (taken ⟨true, false, false⟩ (waiting e small)).usb.taken.poll = true ∧
      (waiting e small).usb.events.inDone = true ∧ (waiting e small).usb.events.ctrl = true := by decide

/-- A packet waits in the OUT endpoint. -/
def packetIn (p : List Byte) : State :=
  { small with usb := { small.usb with epOut := .Full p, events := ⟨true, false, false⟩ } }

/-- The OUT endpoint is held off. -/
def heldOff (count : Nat) : State :=
  { small with
    ins := ⟨[1, 2], count % 2, 0, count⟩
    usb := { small.usb with receiving := false, epOut := .Nak } }

/-- A packet that does not fit: a state that no run reaches. -/
def tooFull : State :=
  taken ⟨true, false, false⟩ { packetIn [7, 8] with ins := ⟨[1, 2], 1, 0, 1⟩ }

theorem witness_OutPacketAndResume_holds :
    Turn tooFull .usbSvc 0 [] ∧ tooFull.usb.taken.poll = true ∧ tooFull.usb.events = ⟨true, false, false⟩ ∧
    tooFull.usb.epOut = .Full [7, 8] ∧ tooFull.cfg.capIn < tooFull.ins.count + 2 := by decide

/-- Other events wait with the packet's; an event without a packet (log 33). -/
theorem witness_OutPacketAndResume_several :
    (∀ s ∈ [waiting ⟨true, true, true⟩ (packetIn [7, 8]), waiting ⟨true, false, false⟩ small],
      Turn (taken ⟨true, false, false⟩ s) .usbSvc 0 [] ∧ TransportOk (taken ⟨true, false, false⟩ s) ∧
      (taken ⟨true, false, false⟩ s).usb.taken.poll = true ∧ s.usb.events.outRx = true) ∧
    small.usb.epOut = .Valid := by decide

/-- R300: a packet that would pass the capacity is not put; an event beside it is handled. -/
theorem test_full_stream_holds :
    nextIs (step tooFull) (fun s => s.ins.count == 1 && s.usb.events.outRx) = true ∧
    nextIs (step (waiting ⟨true, false, true⟩ tooFull)) (fun s => s.ins.count == 1 && s.usb.events == ⟨true, false, false⟩) = true := by
  decide

theorem witness_OutPacketAndResume :
    (∀ p ∈ [[], [(7 : Byte), 8]], Turn (taken ⟨true, false, false⟩ (packetIn p)) .usbSvc 0 [] ∧
      TransportOk (taken ⟨true, false, false⟩ (packetIn p)) ∧
      (taken ⟨true, false, false⟩ (packetIn p)).usb.taken.poll = true ∧
      (packetIn p).usb.events = ⟨true, false, false⟩ ∧ (packetIn p).usb.epOut = .Full p) ∧
    (∀ s ∈ [heldOff 0, heldOff 1, small], Turn (taken ⟨false, true, false⟩ s) .usbSvc 0 [] ∧
      TransportOk (taken ⟨false, true, false⟩ s) ∧ (taken ⟨false, true, false⟩ s).usb.taken.poll = false ∧
      (taken ⟨false, true, false⟩ s).usb.taken.recvResume = true) ∧
    (heldOff 0).cfg.mps ≤ (heldOff 0).cfg.capIn - (heldOff 0).ins.count ∧
    (heldOff 1).cfg.capIn - (heldOff 1).ins.count < (heldOff 1).cfg.mps := by decide

theorem witness_UsbRoundAndHostMoves :
    (Turn (turn .usbSvc 0 { small with usb := { small.usb with pending := ⟨false, true, false⟩ } }) .usbSvc 0 [] ∧
      small.usb.taken = ⟨false, false, false⟩ ∧ (⟨false, true, false⟩ : Pending) ≠ ⟨false, false, false⟩) ∧
    (Turn (taken ⟨true, false, false⟩ small) .usbSvc 0 [] ∧ (taken ⟨true, false, false⟩ small).usb.taken.poll = true ∧
      small.usb.events = ⟨false, false, false⟩) ∧
    (Turn (turn .hostOut 0 (small.withInput [[1, 2], []])) .hostOut 0 [] ∧
      (small.withInput [[1, 2], []]).host.tx = [1, 2] :: [[]] ∧ [(1 : Byte), 2].length ≤ small.cfg.mps ∧
      small.usb.epOut = .Valid ∧ (heldOff 0).usb.epOut ≠ .Valid) ∧
    (Turn (turn .hostIn 0 { small with usb := { small.usb with epIn := .Busy [1] } }) .hostIn 0 []) ∧
    (∀ e ∈ [(⟨true, false, false⟩ : Events), ⟨true, true, true⟩],
      Turn (taken ⟨true, false, false⟩ (waiting e (packetIn [7]))) .usbSvc 0 [] ∧
      TransportOk (taken ⟨true, false, false⟩ (waiting e (packetIn [7]))) ∧ e ≠ ⟨false, false, false⟩) ∧
    Turn (turn .hostCtrl 0 small) .hostCtrl 0 [] := by decide

/-- The Shell has taken a byte, with `k` bytes of a line already kept. -/
def received (c : Byte) (cap k : Nat) : State :=
  { State.reset with
    cfg := { Config.params with lineCap := cap }
    sh := ⟨⟨List.replicate cap 0x41, k⟩, .READING, some c, [], false⟩ }

theorem witness_LineAssembly_recv :
    ∀ q ∈ [ByteStream.reset 2, ⟨[1, 2], 0, 1, 1⟩, ⟨[1, 2], 0, 0, 2⟩],
      Turn (turn .shell 0 { small with ins := q }) .shell 0 [] ∧ ({ small with ins := q } : State).phase = .IDLE ∧
      ({ small with ins := q } : State).sh.pos = .READING ∧ ({ small with ins := q } : State).sh.recvd = none := by decide

/-- R303: recv takes the oldest byte, here the one at the read cursor. -/
theorem test_recv_takes_oldest :
    nextIs (step (turn .shell 0 { small with ins := ⟨[1, 2], 1, 1, 2⟩ }))
      (fun s => s.sh.recvd == some 2 && s.ins.contents 2 == [1]) = true := by decide

theorem witness_LineAssembly :
    (∀ c ∈ [(0x0D : Byte), 0x0A, 0x20, 0x7E, 0x1F, 0x7F], ∀ k ∈ [0, 1, 2], Turn (turn .shell 0 (received c 2 k)) .shell 0 [] ∧
      (received c 2 k).phase = .IDLE ∧ (received c 2 k).sh.pos = .READING ∧ (received c 2 k).sh.recvd = some c) := by decide

/-- The Shell sends `rest`, at step A or B. -/
def replying (rest : List Byte) (atB : Bool) (outs : ByteStream) : State :=
  turn .shell 0 { small with
    outs := outs
    sh := { small.sh with pos := .REPLYING, sendRest := rest, sendAtB := atB } }

theorem witness_SendSteps :
    (∀ q ∈ [(⟨[1, 2, 3, 4], 0, 0, 4⟩ : ByteStream), ⟨[1, 2, 3, 4], 3, 0, 3⟩], ∀ b : Bool, ∀ r ∈ [[], [(9 : Byte), 8]],
      Turn (replying r b q) .shell 0 [] ∧ TransportOk (replying r b q) ∧ (replying r b q).phase = .IDLE ∧
      (replying r b q).sh.pos = .REPLYING ∧ (replying r b q).sh.sendAtB = b ∧ (replying r b q).outs = q) := by decide

/-- A step of the reset state: the host makes a control request. -/
theorem step_reset_hostCtrl :
    step (turn .hostCtrl 0 State.reset) = .next (hostCtrlStep (turn .hostCtrl 0 State.reset).takeChoice) := by rfl

theorem witness_MemoryStaysCanonical :
    (turn .hostCtrl 0 State.reset).mem.wf = true ∧
    step (turn .hostCtrl 0 State.reset) = .next (hostCtrlStep (turn .hostCtrl 0 State.reset).takeChoice) :=
  ⟨by decide, step_reset_hostCtrl⟩

/-- The small transport with nothing to do. -/
def resting : State := { small with outs := ByteStream.reset 4 }

/-- A launch with two packets, other parameters than those of reset, and other values where R501 gives none. -/
theorem witness_ResetMeetsInvariants :
    CleanEntry { small.withInput [[1, 2], []] with
      outs := ⟨[9, 9, 9, 9], 0, 0, 0⟩, ins := ⟨[8, 8], 0, 0, 0⟩, mem := [(3, 7)], i2c := { I2cp.reset with sadd := 5 } } := by
  refine ⟨by decide, rfl, rfl, rfl, rfl, rfl, by decide, rfl, by decide, by decide, by decide, by decide, rfl, rfl, ?_,
    rfl, rfl, rfl, rfl, by decide, rfl, by decide, rfl⟩
  exact List.length_replicate

theorem witness_TransportInvariantKept :
    TransportOk (turn .hostCtrl 0 small) ∧ FlowOk (turn .hostCtrl 0 resting) ∧ TransportOk (turn .hostCtrl 0 resting) ∧
    step (turn .hostCtrl 0 small) = .next (hostCtrlStep (turn .hostCtrl 0 small).takeChoice) :=
  ⟨by decide, by decide, by decide, by rfl⟩

theorem witness_EngineInvariantKept :
    EngineOk (turn .hostCtrl 0 State.reset) ∧ State.reset.client = none ∧ NoEmptyPhase State.reset ∧
    step (turn .hostCtrl 0 State.reset) = .next (hostCtrlStep (turn .hostCtrl 0 State.reset).takeChoice) :=
  ⟨by decide, rfl, by decide, step_reset_hostCtrl⟩

/-- A step of a state with a call: the call of one byte, and the empty second phase. -/
theorem witness_EngineInvariantKept_calls :
    (∀ n ∈ [0, 1], EngineOk { State.reset with phase := .CONFIG, call := some (callOne 0x50 ⟨.W, 0, n, false⟩ none .silent) }) ∧
    EngineOk { State.reset with
      phase := .CONFIG, call := some (callTwo 0x50 ⟨.W, 0, 1, true⟩ ⟨.W, 0, 0, false⟩ none .silent) } ∧
    NoEmptyPhase { State.reset with phase := .CONFIG, call := some (callOne 0x50 ⟨.W, 0, 1, false⟩ none .silent) } := by decide

theorem witness_NoStepIsRefused : EngineOk State.reset ∧ NoEmptyPhase State.reset ∧ State.reset.client = none := by decide

/-- A quiescent state, and a clean entry. -/
theorem witness_NoStepIsRefused_rest :
    EngineOk resting ∧ TransportOk resting ∧ FlowOk resting ∧ Quiescent resting = true :=
  ⟨by decide, by decide, by decide, by decide⟩

theorem witness_NoStepIsRefused_launch : CleanEntry resting := by
  refine ⟨by decide, rfl, rfl, rfl, rfl, rfl, by decide, rfl, by decide, by decide, by decide, by decide, rfl, rfl, ?_,
    rfl, rfl, rfl, rfl, by decide, rfl, by decide, rfl⟩
  exact List.length_replicate

/-- The launch of an input of one packet of two bytes, before any agent has moved. -/
def launched : State := { resting.withInput [[0x0D, 0x0A]] with now := ⟨.client, 0⟩ }

/-- The launch premises of R542 are met together: here by the execution in which no agent has moved yet. -/
theorem witness_Launch :
    Launch launched.cfg [0x0D, 0x0A] [2] (Target.ackAll []) (fun _ => ⟨.client, 0⟩) (fun _ => launched) where
  clean := by
    refine ⟨by decide, rfl, rfl, rfl, rfl, rfl, by decide, rfl, by decide, by decide, by decide, by decide, rfl, rfl, ?_,
      rfl, rfl, rfl, rfl, by decide, rfl, by decide, rfl⟩
    exact List.length_replicate
  params := rfl
  input := ⟨rfl, rfl, by decide⟩
  target := by
    simp [TargetModel, StallsAs, DmaErrsAs, Takes, Target.ackAll]
  run := fun _ => by rfl

/-- A chunk that waits with no signal and a peripheral that stalls is no end of a run: the timeout is to come. -/
theorem test_waiting_is_not_quiescent : Quiescent (inPhase .WAIT .W 1) = false := by decide

theorem witness_EnabledExactlyWhereRulesSay :
    Turn (turn .pStart 0 State.reset) .pStart 0 [] ∧ ¬ MayMove (turn .pStart 0 State.reset) .pStart ∧
    Turn (turn .shell 0 State.reset) .shell 0 [] ∧ ¬ MayMove (turn .shell 0 State.reset) .shell := by
  refine ⟨by decide, ?_, by decide, ?_⟩
  · simp [MayMove, turn, State.reset, I2cp.reset]
  · simp [MayMove, turn, State.reset, ByteStream.reset]

theorem witness_DisturbanceSteps :
    State.reset.i2c.peActive = true ∧ Turn (turn .pNoise 0 State.reset) .pNoise 0 [] ∧
    Turn (turn .pStall 0 State.reset) .pStall 0 [] ∧ State.reset.i2c.stalled = false := by decide

theorem witness_TraceGrowsParametersFixed :
    step (turn .hostCtrl 0 State.reset) = .next (hostCtrlStep (turn .hostCtrl 0 State.reset).takeChoice) ∧
    LineOk (turn .hostCtrl 0 State.reset) := ⟨step_reset_hostCtrl, List.length_replicate, Nat.zero_le _⟩

theorem witness_OnlyOwnersWrite :
    (turn .hostCtrl 0 State.reset).sched = ⟨.hostCtrl, 0⟩ :: [] ∧
    step (turn .hostCtrl 0 State.reset) = .next (hostCtrlStep (turn .hostCtrl 0 State.reset).takeChoice) ∧
    Move.hostCtrl ∉ [Move.shell, .timer, .client] ∧ Move.hostCtrl ∉ [Move.shell, .usbSvc] ∧ Move.hostCtrl ≠ .usbSvc ∧
    Move.hostCtrl ∉ [Move.shell, .usbSvc, .isrUsb] ∧ Move.hostCtrl ∉ [Move.shell, .dmaRx] ∧ Move.hostCtrl ∉ peripheralMoves ∧
    Move.hostCtrl ∉ [Move.shell, .dmaTx, .dmaRx, .isrI2cEr] ++ peripheralMoves :=
  ⟨by decide, step_reset_hostCtrl, by decide⟩

/-- Each interrupt enable falls and rises somewhere. -/
theorem witness_OnlyOwnersWrite_enables :
    nextIs (step (turn .isrI2cEv 0 allPending)) (fun s => !s.irqen.ev) = true ∧
    nextIs (step (turn .isrDmaTx 0 allPending)) (fun s => !s.irqen.dtx) = true ∧
    nextIs (step (turn .isrDmaRx 0 allPending)) (fun s => !s.irqen.drx) = true ∧
    nextIs (step (turn .isrUsb 0 allPending)) (fun s => !s.irqen.usb) = true ∧
    nextIs (step (turn .shell 0 { inPhase .REARM .W 1 with irqen := ⟨false, false, false, false, false⟩ }))
      (fun s => s.irqen == ⟨true, true, true, true, false⟩) = true ∧
    nextIs (step (taken ⟨true, false, false⟩ { small with irqen := ⟨false, false, false, false, false⟩ }))
      (fun s => s.irqen == ⟨false, false, false, false, true⟩) = true := by decide

theorem witness_SignalSetAndCleared :
    ({ inPhase .DRAIN .W 1 with sem := true } : State).sem = true ∧
    nextIs (step (turn .shell 0 { inPhase .DRAIN .W 1 with sem := true })) (fun s => !s.sem) = true ∧
    allPending.sem = false ∧ nextIs (step (turn .isrDmaRx 0 allPending)) (fun s => s.sem) = true := by decide

theorem witness_WriteChunkCompletes :
    EngineClean State.reset ∧ State.reset.now.move ≠ .client ∧ 1 ≤ 255 ∧ 255 ≤ 255 ∧
    (2 ^ 32 - 255) + 255 ≤ memTop State.reset.cfg := by decide

theorem witness_ReadChunkCompletes :
    EngineClean State.reset ∧ State.reset.now.move ≠ .client ∧ 1 ≤ [(7 : Byte)].length ∧ [(7 : Byte)].length ≤ 255 ∧
    128 + [(7 : Byte)].length ≤ memTop State.reset.cfg ∧ (129 < 128 ∨ 128 + [(7 : Byte)].length ≤ 129) := by decide

theorem witness_ReadCommandReplies :
    EngineClean State.reset ∧ ParamsOk State.reset.cfg ∧ (0x50 : Addr7) ≠ 0 ∧ 1 ≤ [(7 : Byte)].length ∧
    [(7 : Byte)].length ≤ 64 := by decide

theorem witness_AddressNackFailsChunk :
    EngineClean State.reset ∧ State.reset.now.move ≠ .client ∧ 1 ≤ 1 ∧ 1 ≤ 255 ∧ 128 + 1 ≤ memTop State.reset.cfg := by decide

end Sys2Proof.Tests
end

/-!
PROOFS. What one step of the machine can do, said once: `StepBy s m s'` lists the atomic steps of agent `m` in a state `s`
that has taken up its choice, each with its guard, in three parts by what they write; `step_stepBy` ties the list to `step`.
The invariants below are case analyses over this list.
-/

namespace Sys2Proof.Machine

/-! ## The list of steps -/

/-- A call whose first transfer has a length, and whose buffers lie in the data memory (R264). -/
structure Call.Fits (p : Params) (c : Call) : Prop where
  nonempty : 1 ≤ c.cur.len
  inMemory : XferOk p c.cur
  nextInMemory : ∀ x ∈ c.next, XferOk p x

/-- What REARM leaves before its transfer goes on: the sources enabled, no record, the total summed, and free bytes in a
failed read's buffer, of which nothing is said (R220, R42, I8). -/
def State.settled (s : State) (mem : Memory) (free total : Nat) : State :=
  { s.rearmSources with
    phase := .IDLE, txn := none, mem := mem, free := free, eng := { s.eng with total := total } }

/-- What REARM leaves where its call returns `ok`, before the reply (R272). -/
def State.returned (s : State) (mem : Memory) (free total : Nat) (ok : Bool) : State :=
  { s.settled mem free total with call := none, eng := { s.eng with total := total, ok := ok } }

/-- The steps that dispatch a line, run the sequencer, take up a client's request or give the completion signal, with
their guards. -/
inductive EngineStep (s : State) : Move → State → Prop where
  -- the dispatch of a line
  | reply (mem : Memory) (cause : Cause) (text : List Byte) : s.phase = .IDLE → s.sh.pos = .DISPATCH →
      EngineStep s .shell ({ s with mem := mem, eng := { s.eng with cause := cause } }.startReply text)
  | lineCall (mem : Memory) (c : Call) : s.phase = .IDLE → s.sh.pos = .DISPATCH → s.call = none → c.Fits s.cfg →
      (∀ x ∈ c.next, 1 ≤ x.len) → EngineStep s .shell ({ s with mem := mem }.beginXfer c)
  | clientCall (r : Request) (c : Call) : s.client = some r → s.phase = .IDLE → s.call = none → c.Fits s.cfg →
      c.reply = .silent → EngineStep s .client ({ s with client := none }.beginXfer c)
  -- the sequencer
  | config (c : Call) : s.phase = .CONFIG → s.call = some c → 1 ≤ c.dueLen →
      EngineStep s .shell (configStep c.addr c.cur.dir (ptr s.cfg (c.cur.buf + c.off)) c.dueLen c.dueCont s)
  | arm (t : Txn) : s.phase = .ARM → s.txn = some t → EngineStep s .shell (armStep s t)
  | drain : s.phase = .DRAIN → EngineStep s .shell (drainStep s)
  | endma (t : Txn) : s.phase = .ENDMA → s.txn = some t → EngineStep s .shell (endmaStep s t)
  | start : s.phase = .START → EngineStep s .shell (startStep s)
  | waitTake : s.phase = .WAIT → s.sem = true → EngineStep s .shell (waitTakeStep s)
  | waitTimeout : s.phase = .WAIT → s.timeoutEnabled = true → EngineStep s .timer (waitTimeoutStep s)
  | eval (t : Txn) : s.phase = .EVAL → s.txn = some t → EngineStep s .shell (evalStep s t)
  | stopreq (t : Txn) : s.phase = .STOPREQ → s.txn = some t → EngineStep s .shell (stopreqStep s t)
  | dmaoff (t : Txn) : s.phase = .DMAOFF → s.txn = some t → EngineStep s .shell (dmaoffStep s t)
  | rstDis : s.phase = .RST_DIS → EngineStep s .shell (rstDisStep s)
  | rstWait : s.phase = .RST_WAIT → s.i2c.peActive = false → EngineStep s .shell (rstWaitStep s)
  | rstEn : s.phase = .RST_EN → EngineStep s .shell (rstEnStep s)
  -- REARM: outside a call; with the next chunk due; with the next transfer begun; with the call returned
  | rearmAlone (mem : Memory) (free : Nat) : s.phase = .REARM → s.call = none →
      EngineStep s .shell (s.settled mem free s.eng.total)
  | rearmChunk (c : Call) (mem : Memory) (free : Nat) : s.phase = .REARM → s.call = some c →
      c.dueLen ≤ s.eng.res.toNat → c.off + c.dueLen < c.cur.len →
      EngineStep s .shell { s.settled mem free (s.eng.total + s.eng.res.toNat) with
        call := some { c with off := c.off + c.dueLen }, phase := .CONFIG }
  | rearmXfer (c : Call) (x : Xfer) (mem : Memory) (free : Nat) : s.phase = .REARM → s.call = some c → c.next = some x →
      s.eng.total + s.eng.res.toNat = c.cur.len →
      EngineStep s .shell
        ((s.settled mem free (s.eng.total + s.eng.res.toNat)).beginXfer { c with cur := x, next := none })
  | rearmSilent (c : Call) (ok : Bool) (mem : Memory) (free : Nat) : s.phase = .REARM → s.call = some c →
      c.reply = .silent → (ok = true ↔ s.eng.total + s.eng.res.toNat = c.cur.len ∧ c.next = none) →
      EngineStep s .shell (s.returned mem free (s.eng.total + s.eng.res.toNat) ok)
  | rearmReply (c : Call) (ok : Bool) (mem : Memory) (free : Nat) (text : List Byte) : s.phase = .REARM →
      s.call = some c → c.reply ≠ .silent → (ok = true ↔ s.eng.total + s.eng.res.toNat = c.cur.len ∧ c.next = none) →
      EngineStep s .shell ((s.returned mem free (s.eng.total + s.eng.res.toNat) ok).startReply text)
  -- the handlers that give
  | isrI2cEv : s.pendingIrq .EV = true → EngineStep s .isrI2cEv (isrI2cEvStep s)
  | isrDmaTx : s.pendingIrq .DTX = true → EngineStep s .isrDmaTx (isrDmaTxStep s)
  | isrDmaRx : s.pendingIrq .DRX = true → EngineStep s .isrDmaRx (isrDmaRxStep s)

/-- The steps of the peripheral, the bus-error handler and the channels, with their guards. -/
inductive BusStep (s : State) : Move → State → Prop where
  | isrI2cEr : s.pendingIrq .ER = true → BusStep s .isrI2cEr (isrI2cErStep s)
  | pStart : s.hwEnabled .pStart = true → BusStep s .pStart (pStartStep s)
  | pAddr (a : Addr7) (d : Dir) (n : Nat) : s.i2c.bus = .Addr a d n → s.i2c.ready = true →
      BusStep s .pAddr (pAddrStep a d n s)
  | pWbyte : s.hwEnabled .pWbyte = true → BusStep s .pWbyte (pWbyteStep s)
  | pRbyte : s.hwEnabled .pRbyte = true → BusStep s .pRbyte (pRbyteStep s)
  | pStop : s.hwEnabled .pStop = true → BusStep s .pStop (pStopStep s)
  | pDisable : s.hwEnabled .pDisable = true → BusStep s .pDisable (pDisableStep s)
  | pNoise : s.hwEnabled .pNoise = true → BusStep s .pNoise (pNoiseStep s)
  | pStall : s.hwEnabled .pStall = true → BusStep s .pStall (pStallStep s)
  | dmaTx : s.hwEnabled .dmaTx = true → BusStep s .dmaTx (dmaTxStep s)
  | dmaRx : s.hwEnabled .dmaRx = true → BusStep s .dmaRx (dmaRxStep s)

/-- The steps of the Shell's loop, the servicing task, the USB handler and the host, with their guards. -/
inductive TransportStep (s : State) : Move → State → Prop where
  | recvTake : s.phase = .IDLE → s.sh.pos = .READING → 1 ≤ s.ins.count → TransportStep s .shell (recvTakeStep s)
  | recvPost (c : Byte) : s.phase = .IDLE → s.sh.pos = .READING → s.sh.recvd = some c →
      TransportStep s .shell (recvPostStep c s)
  | sendPut : s.phase = .IDLE → s.sh.pos = .REPLYING → s.sh.sendAtB = false → TransportStep s .shell (sendPutStep s)
  | sendPost : s.phase = .IDLE → s.sh.pos = .REPLYING → s.sh.sendAtB = true → TransportStep s .shell (sendPostStep s)
  | pollEvent (x : UsbEvent) : s.usb.taken.poll = true → x ∈ s.readyEvents →
      TransportStep s .usbSvc (handleEvent x { s with usb := { s.usb with events := s.usb.events.remove x } })
  | pollEnd : s.usb.taken.poll = true → s.usb.events.any = false → TransportStep s .usbSvc (pollEnd s)
  | recvResume : s.usb.taken.poll = false → s.usb.taken.recvResume = true → TransportStep s .usbSvc (recvResumeStep s)
  | sendResume : s.usb.taken.poll = false → s.usb.taken.recvResume = false → s.usb.taken.sendResume = true →
      TransportStep s .usbSvc (sendResumeStep s)
  | takeAll : s.usb.taken = Pending.empty → TransportStep s .usbSvc (takeAllStep s)
  | isrUsb : s.pendingIrq .USB = true → TransportStep s .isrUsb (isrUsbStep s)
  | hostOut (p : List Byte) (ps : List (List Byte)) : s.usb.epOut = .Valid → s.host.tx = p :: ps →
      p.length ≤ s.cfg.mps → TransportStep s .hostOut (hostOutStep s)
  | hostIn (p : List Byte) : s.usb.epIn = .Busy p → TransportStep s .hostIn (hostInStep s)
  | hostCtrl : TransportStep s .hostCtrl (hostCtrlStep s)

/-- The atomic steps of each agent (R470), and the turn of an agent that holds. -/
inductive StepBy (s : State) (m : Move) : State → Prop where
  | hold : StepBy s m s
  | engine {s' : State} : EngineStep s m s' → StepBy s m s'
  | bus {s' : State} : BusStep s m s' → StepBy s m s'
  | transport {s' : State} : TransportStep s m s' → StepBy s m s'

/-! ## Engine calls -/

/-- A call of one transfer that is not refused. -/
theorem callOne_fits {s : State} {addr : Addr7} {x : Xfer} {b : Option (Nat × Nat)} {r : Reply}
    (h : refuseOne s x.buf x.len = none) : (callOne addr x b r).Fits s.cfg ∧ s.call = none ∧ s.phase = .IDLE := by
  obtain ⟨hlen, hmem, hidle⟩ := refuseOne_eq_none.mp h
  exact ⟨⟨hlen, hmem, by simp [callOne]⟩, State.inFlight_eq_false.mp hidle⟩

/-- A call of two transfers that is not refused. -/
theorem callTwo_fits {s : State} {addr : Addr7} {x y : Xfer} {b : Option (Nat × Nat)} {r : Reply}
    (h : refuseTwo s x.buf x.len y.buf y.len = none) :
    (callTwo addr x y b r).Fits s.cfg ∧ s.call = none ∧ s.phase = .IDLE := by
  obtain ⟨hlen, hmem, hmem2, hidle⟩ := refuseTwo_eq_none.mp h
  exact ⟨⟨hlen, hmem, by simpa [callTwo] using hmem2⟩, State.inFlight_eq_false.mp hidle⟩

/-- A client's request of one transfer, where it is not refused, begins its call. -/
theorem makeCall_one_clientCall {s s' : State} {r : Request} {addr : Addr7} {x : Xfer} {b : Option (Nat × Nat)}
    (hr : s.client = some r)
    (h : State.makeCall { s with client := none } (refuseOne { s with client := none } x.buf x.len)
      (callOne addr x b .silent) = .next s') : EngineStep s .client s' := by
  obtain ⟨hwhy, rfl⟩ := State.makeCall_next h
  obtain ⟨hfits, hcall, hphase⟩ := callOne_fits hwhy
  exact .clientCall r _ hr hphase hcall hfits rfl

/-- A client's request of two transfers, where it is not refused, begins its call. -/
theorem makeCall_two_clientCall {s s' : State} {r : Request} {addr : Addr7} {x y : Xfer} {b : Option (Nat × Nat)}
    (hr : s.client = some r)
    (h : State.makeCall { s with client := none } (refuseTwo { s with client := none } x.buf x.len y.buf y.len)
      (callTwo addr x y b .silent) = .next s') : EngineStep s .client s' := by
  obtain ⟨hwhy, rfl⟩ := State.makeCall_next h
  obtain ⟨hfits, hcall, hphase⟩ := callTwo_fits hwhy
  exact .clientCall r _ hr hphase hcall hfits rfl

/-- A client's request begins its call, or is refused: ops 5 and 6 always, from outside the engine (R175). -/
theorem exec_request_engineStep {s s' : State} {r : Request} (hr : s.client = some r) (hm : s.now.move = .client)
    (h : exec (decodeRequest r) { s with client := none } = .next s') : EngineStep s .client s' := by
  have hout : State.fromOutside { s with client := none } = true := by simp [State.fromOutside, hm]
  unfold decodeRequest at h
  split at h
  · exact makeCall_one_clientCall (x := ⟨_, _, _, _⟩) hr h
  · exact makeCall_one_clientCall (x := ⟨_, _, _, _⟩) hr h
  · exact makeCall_one_clientCall (x := ⟨_, _, _, _⟩) hr h
  · exact makeCall_two_clientCall (x := ⟨_, _, _, _⟩) (y := ⟨_, _, _, _⟩) hr h
  · exact makeCall_two_clientCall (x := ⟨_, _, _, _⟩) (y := ⟨_, _, _, _⟩) hr h
  · simp [exec, execChunk, hout] at h
  · simp [exec, execSoftReset, hout] at h
  · simp [exec, execReserved] at h

/-! ## Command lines -/

/-- A line decodes to a command or to the unrecognized line (R176). -/
theorem decodeLine_form (p : Params) (line : List Byte) : (decodeLine p line).form = .line := by
  unfold decodeLine decodeCommand
  split
  · rfl
  · repeat' split
    all_goals rfl

/-- A checked length is 1 or more (R165). -/
theorem checkLen_pos {nn : Option Nat} {n : Nat} (h : checkLen nn = some n) : 1 ≤ n := by
  obtain ⟨hmin, -⟩ := Bool.and_eq_true_iff.mp (Option.filter_eq_some_iff.mp h).2
  exact of_decide_eq_true hmin

section
variable {s s' : State} (hphase : s.phase = .IDLE) (hpos : s.sh.pos = .DISPATCH)
include hphase hpos

/-- A rejected line is replied to (R382). -/
theorem rejectLine_engineStep (mem : Memory)
    (h : (.next (State.rejectLine { s with mem := mem }) : Result) = .next s') : EngineStep s .shell s' := by
  obtain rfl := Host.Outcome.next.inj h
  exact .reply mem .MALFORMED Text.error hphase hpos

/-- A line's call of one transfer, where it is not refused, begins. -/
theorem makeCall_one_lineCall {mem : Memory} {addr : Addr7} {x : Xfer} {b : Option (Nat × Nat)} {r : Reply}
    (h : State.makeCall { s with mem := mem } (refuseOne { s with mem := mem } x.buf x.len) (callOne addr x b r)
      = .next s') : EngineStep s .shell s' := by
  obtain ⟨hwhy, rfl⟩ := State.makeCall_next h
  obtain ⟨hfits, hcall, -⟩ := callOne_fits hwhy
  exact .lineCall mem _ hphase hpos hcall hfits (by simp [callOne])

/-- A line's call of two transfers, where it is not refused, begins. -/
theorem makeCall_two_lineCall {mem : Memory} {addr : Addr7} {x y : Xfer} {b : Option (Nat × Nat)} {r : Reply}
    (hy : 1 ≤ y.len)
    (h : State.makeCall { s with mem := mem } (refuseTwo { s with mem := mem } x.buf x.len y.buf y.len)
      (callTwo addr x y b r) = .next s') : EngineStep s .shell s' := by
  obtain ⟨hwhy, rfl⟩ := State.makeCall_next h
  obtain ⟨hfits, hcall, -⟩ := callTwo_fits hwhy
  exact .lineCall mem _ hphase hpos hcall hfits (by simpa [callTwo] using hy)

theorem execPing_engineStep {extra : Bool} (h : execPing extra s = .next s') : EngineStep s .shell s' := by
  unfold execPing at h
  split at h
  · exact rejectLine_engineStep hphase hpos s.mem h
  · obtain rfl := Host.Outcome.next.inj h
    exact .reply s.mem s.eng.cause Text.ok hphase hpos

theorem execRead_engineStep {aa : Option Addr7} {nn : Option Nat} {extra : Bool}
    (h : execRead aa nn extra s = .next s') : EngineStep s .shell s' := by
  unfold execRead at h
  split at h
  · split at h
    · exact rejectLine_engineStep hphase hpos s.mem h
    · exact makeCall_one_lineCall hphase hpos (mem := s.mem) (x := ⟨_, _, _, _⟩) h
  · exact rejectLine_engineStep hphase hpos s.mem h

theorem execWrite_engineStep {aa : Option Addr7} {nn : Option Nat} {data : Option (List Byte)} {extra : Bool}
    (h : execWrite aa nn data extra s = .next s') : EngineStep s .shell s' := by
  unfold execWrite at h
  split at h
  · split at h
    · dsimp only at h
      split at h
      · exact rejectLine_engineStep hphase hpos _ h
      · exact makeCall_one_lineCall hphase hpos (x := ⟨_, _, _, _⟩) h
    · exact rejectLine_engineStep hphase hpos s.mem h
  · exact rejectLine_engineStep hphase hpos s.mem h

theorem execWriteRead_engineStep {aa : Option Addr7} {n1 : Option Nat} {data1 : Option (List Byte)} {n2 : Option Nat}
    {extra : Bool} (h : execWriteRead aa n1 data1 n2 extra s = .next s') : EngineStep s .shell s' := by
  unfold execWriteRead at h
  split at h
  · split at h
    · dsimp only at h
      split at h
      · rename_i hn2
        split at h
        · exact rejectLine_engineStep hphase hpos _ h
        · exact makeCall_two_lineCall hphase hpos (x := ⟨_, _, _, _⟩) (y := ⟨_, _, _, _⟩) (checkLen_pos hn2) h
      · exact rejectLine_engineStep hphase hpos _ h
    · exact rejectLine_engineStep hphase hpos s.mem h
  · exact rejectLine_engineStep hphase hpos s.mem h

theorem execWriteWrite_engineStep {aa : Option Addr7} {n1 : Option Nat} {data1 : Option (List Byte)} {n2 : Option Nat}
    {data2 : Option (List Byte)} {extra : Bool} (h : execWriteWrite aa n1 data1 n2 data2 extra s = .next s') :
    EngineStep s .shell s' := by
  unfold execWriteWrite at h
  split at h
  · split at h
    · dsimp only at h
      split at h
      · rename_i hn2
        split at h
        · split at h
          · exact rejectLine_engineStep hphase hpos _ h
          · exact makeCall_two_lineCall hphase hpos (x := ⟨_, _, _, _⟩) (y := ⟨_, _, _, _⟩) (checkLen_pos hn2) h
        · exact rejectLine_engineStep hphase hpos _ h
      · exact rejectLine_engineStep hphase hpos _ h
    · exact rejectLine_engineStep hphase hpos s.mem h
  · exact rejectLine_engineStep hphase hpos s.mem h

/-- A line is replied to at its dispatch, or begins its engine call (R374, R382-R388). -/
theorem exec_line_engineStep {i : Instr} (hi : i.form = .line) (h : exec i s = .next s') : EngineStep s .shell s' := by
  cases i with
  | ping => exact execPing_engineStep hphase hpos h
  | read => exact execRead_engineStep hphase hpos h
  | write => exact execWrite_engineStep hphase hpos h
  | writeRead => exact execWriteRead_engineStep hphase hpos h
  | writeWrite => exact execWriteWrite_engineStep hphase hpos h
  | unrecognized => exact rejectLine_engineStep hphase hpos s.mem h
  | _ => cases hi

end

/-! ## The end of a chunk -/

/-- A call without a reply returns (R265-R268). -/
theorem State.returnCall_silent (s : State) {c : Call} (ok : Bool) (h : c.reply = .silent) :
    ∃ m f, s.returnCall c ok
      = { s with call := none, phase := .IDLE, eng := { s.eng with ok := ok }, mem := m, free := f } := by
  unfold State.returnCall State.spoilReadBuf State.havoc
  rw [h]
  cases c.readBuf <;> cases ok <;> exact ⟨_, _, rfl⟩

/-- A call that owes a reply returns, and the Shell begins to send (R384-R387, R389). -/
theorem State.returnCall_reply (s : State) {c : Call} (ok : Bool) (h : c.reply ≠ .silent) :
    ∃ m f text, s.returnCall c ok
      = State.startReply
          { s with call := none, phase := .IDLE, eng := { s.eng with ok := ok }, mem := m, free := f } text := by
  unfold State.returnCall State.spoilReadBuf State.havoc
  cases hr : c.reply with
  | silent => exact absurd hr h
  | ok => cases c.readBuf <;> cases ok <;> exact ⟨_, _, _, rfl⟩
  | data n => cases c.readBuf <;> cases ok <;> exact ⟨_, _, _, rfl⟩

/-- REARM settles the chunk and hands its result to the transfer (R220, R260). -/
theorem rearmStep_settled (s : State) : ∃ m f, rearmStep s = (s.settled m f s.eng.total).chunkDone := rearmStep_eq s

theorem State.chunkDone_none {s : State} (h : s.call = none) : s.chunkDone = s := by
  simp only [State.chunkDone, h]

theorem State.chunkDone_some {s : State} {c : Call} (h : s.call = some c) : s.chunkDone = s.returnChunk c c.dueLen := by
  simp only [State.chunkDone, h]

/-- REARM: the next chunk, the next transfer, or the end of the call (R220, R260, R263). -/
theorem rearmStep_engineStep {s : State} (hphase : s.phase = .REARM) : EngineStep s .shell (rearmStep s) := by
  obtain ⟨m, f, h⟩ := rearmStep_settled s
  rw [h]
  cases hc : s.call with
  | none =>
    rw [State.chunkDone_none (s := s.settled m f _) hc]
    exact .rearmAlone m f hphase hc
  | some c =>
    rw [State.chunkDone_some (s := s.settled m f _) hc]
    obtain ⟨hres, hoff, hs⟩ | ⟨x, hx, htotal, hs⟩ | ⟨ok, hok, hs⟩ :=
      (s.settled m f s.eng.total).returnChunk_cases c c.dueLen
    · rw [hs]
      exact .rearmChunk c m f hphase hc hres hoff
    · rw [hs]
      exact .rearmXfer c x m f hphase hc hx htotal
    · rw [hs]
      by_cases hr : c.reply = .silent
      · obtain ⟨m', f', h'⟩ := State.returnCall_silent _ ok hr
        rw [h']
        exact .rearmSilent c ok m' f' hphase hc hr hok
      · obtain ⟨m', f', text, h'⟩ := State.returnCall_reply _ ok hr
        rw [h']
        exact .rearmReply c ok m' f' text hphase hc hr hok

/-! ## The agents' turns -/

/-- The chunk due is issued: its CONFIG step, or a refusal (R200, R201). -/
theorem exec_dueChunk_engineStep {s s' : State} {c : Call} (hphase : s.phase = .CONFIG) (hc : s.call = some c)
    (h : exec (c.dueChunk s.cfg) s = .next s') : EngineStep s .shell s' := by
  unfold Call.dueChunk exec execChunk at h
  dsimp only at h
  split at h
  · cases h
  split at h
  · cases h
  rename_i hn
  iterate 3
    split at h
    · cases h
  obtain rfl := Host.Outcome.next.inj h
  exact .config c hphase hc (Nat.pos_of_ne_zero hn)

/-- The soft reset is issued by the engine itself: its RST_DIS step (R219, R221). -/
theorem exec_softReset_engineStep {s s' : State} (hphase : s.phase = .RST_DIS) (h : exec .softReset s = .next s') :
    EngineStep s .shell s' := by
  unfold exec execSoftReset at h
  dsimp only at h
  split at h
  · cases h
  · obtain rfl := Host.Outcome.next.inj h
    exact .rstDis hphase

/-- The Shell at an instruction: a line, the chunk due, or the soft reset. -/
theorem exec_shellInstr_engineStep {s s' : State} {i : Instr} (hi : s.shellInstr = some i) (h : exec i s = .next s') :
    EngineStep s .shell s' := by
  unfold State.shellInstr at hi
  split at hi
  · rename_i hphase
    split at hi
    · rename_i hpos
      obtain rfl := Option.some.inj hi
      exact exec_line_engineStep hphase hpos (decodeLine_form _ _) h
    · cases hi
  · rename_i hphase
    obtain ⟨c, hc, rfl⟩ := Option.map_eq_some_iff.mp hi
    exact exec_dueChunk_engineStep hphase hc h
  · rename_i hphase
    obtain rfl := Option.some.inj hi
    exact exec_softReset_engineStep hphase h
  · cases hi

/-- The Shell's loop, where a step of it is enabled (R303, R304). -/
theorem shellLoopStep_transportStep {s : State} (hphase : s.phase = .IDLE) (hpos : s.sh.pos ≠ .DISPATCH)
    (hen : s.shellEnabled = true) : TransportStep s .shell (shellLoopStep s) := by
  unfold shellLoopStep
  split
  · rename_i hread
    split
    · rename_i c hc
      exact .recvPost c hphase hread hc
    · rename_i hnone
      exact .recvTake hphase hread (by simpa [State.shellEnabled, hphase, hread, hnone] using hen)
  · rename_i hdis
    exact absurd hdis hpos
  · rename_i hrep
    split
    · rename_i hatB
      exact .sendPost hphase hrep hatB
    · rename_i hatB
      exact .sendPut hphase hrep (by simpa using hatB)

/-- A step of the sequencer in a phase without an instruction. -/
theorem sequencerStep_engineStep {s s' : State} (hi : s.shellInstr = none) (hen : s.shellEnabled = true)
    (hidle : s.phase ≠ .IDLE) (h : sequencerStep s = .next s') : EngineStep s .shell s' := by
  unfold sequencerStep at h
  split at h
  case h_1 hp => obtain ⟨t, ht, rfl⟩ := State.withTxn_next h; exact .arm t hp ht
  case h_2 hp => obtain rfl := Host.Outcome.next.inj h; exact .drain hp
  case h_3 hp => obtain ⟨t, ht, rfl⟩ := State.withTxn_next h; exact .endma t hp ht
  case h_4 hp => obtain rfl := Host.Outcome.next.inj h; exact .start hp
  case h_5 hp =>
    obtain rfl := Host.Outcome.next.inj h
    exact .waitTake hp (by simpa [State.shellEnabled, hp] using hen)
  case h_6 hp => obtain ⟨t, ht, rfl⟩ := State.withTxn_next h; exact .eval t hp ht
  case h_7 hp => obtain ⟨t, ht, rfl⟩ := State.withTxn_next h; exact .stopreq t hp ht
  case h_8 hp => obtain ⟨t, ht, rfl⟩ := State.withTxn_next h; exact .dmaoff t hp ht
  case h_9 hp =>
    obtain rfl := Host.Outcome.next.inj h
    exact .rstWait hp (by simpa [State.shellEnabled, hp] using hen)
  case h_10 hp => obtain rfl := Host.Outcome.next.inj h; exact .rstEn hp
  case h_11 hp => obtain rfl := Host.Outcome.next.inj h; exact rearmStep_engineStep hp
  case h_12 hp => exact absurd hp hidle
  case h_13 hp =>
    have hcall : s.call = none := by simpa [State.shellInstr, hp] using hi
    simp [State.shellEnabled, hp, hcall] at hen
  case h_14 hp => simp [State.shellInstr, hp] at hi

/-- The Shell's other steps: its loop, or the sequencer's. -/
theorem act_shell_stepBy {s s' : State} (hi : s.shellInstr = none) (hen : s.shellEnabled = true)
    (h : act .shell s = .next s') : StepBy s .shell s' := by
  unfold act at h
  dsimp only at h
  split at h
  · rename_i hphase
    obtain rfl := Host.Outcome.next.inj h
    have hpos : s.sh.pos ≠ .DISPATCH := fun hdis => by simp [State.shellInstr, hphase, hdis] at hi
    exact .transport (shellLoopStep_transportStep hphase hpos hen)
  · rename_i hidle
    exact .engine (sequencerStep_engineStep hi hen hidle h)

/-- A step of the servicing task, where it is enabled (R305-R307). -/
theorem svcStep_stepBy (s : State) : StepBy s .usbSvc (svcStep s) := by
  unfold svcStep
  split
  · rename_i hpoll
    obtain ⟨x, hx, h⟩ | ⟨-, hnone, h⟩ | ⟨-, -, h⟩ := pollStep_cases s <;> rw [h]
    · exact .transport (.pollEvent x hpoll hx)
    · exact .transport (.pollEnd hpoll hnone)
    · exact .hold
  · rename_i hpoll
    split
    · rename_i hrecv
      exact .transport (.recvResume (by simpa using hpoll) hrecv)
    · rename_i hrecv
      split
      · rename_i hsend
        exact .transport (.sendResume (by simpa using hpoll) (by simpa using hrecv) hsend)
      · rename_i hsend
        refine .transport (.takeAll ?_)
        cases h : s.usb.taken
        simp_all [Pending.empty]

/-- The host's packet goes out where the endpoint is valid and the packet is of legal size (R308). -/
theorem hostOutStep_transportStep {s : State} (h : s.hwEnabled .hostOut = true) :
    TransportStep s .hostOut (hostOutStep s) := by
  simp only [State.hwEnabled, Bool.and_eq_true, beq_iff_eq] at h
  obtain ⟨hvalid, hlen⟩ := h
  cases htx : s.host.tx with
  | nil => simp [htx] at hlen
  | cons p ps => exact .hostOut p ps hvalid htx (by simpa [htx] using hlen)

/-- The host takes the packet that the IN endpoint holds (R312). -/
theorem hostInStep_transportStep {s : State} (h : s.hwEnabled .hostIn = true) :
    TransportStep s .hostIn (hostInStep s) := by
  cases hin : s.usb.epIn with
  | Free => simp [State.hwEnabled, hin] at h
  | Busy p => exact .hostIn p hin

/-- The address byte of `a` and `d` is read back as that of `a` and `d` (R171). -/
theorem decodeWire_wireByte (a : Addr7) (d : Dir) :
    decodeWire (wireByte a d) = (match d with | .W => Instr.addrW a | .R => Instr.addrR a) := by
  have ha : a.toNat < 128 := a.isLt
  cases d
  · have hmod : (2 * a.toNat + 0) % 256 = 2 * a.toNat := by omega
    simp [decodeWire, wireByte, Nat.mod_eq_of_lt (show 2 * a.toNat < 256 by omega)]
  · have hmod : (2 * a.toNat + 1) % 256 = 2 * a.toNat + 1 := by omega
    have hodd : (2 * a.toNat + 1) / 2 = a.toNat := by omega
    simp [decodeWire, wireByte, hmod, hodd]

/-- The address byte goes out where the peripheral is ready; else it holds (R208). -/
theorem putAddress_stepBy {s s' : State} {a : Addr7} {d : Dir} {n : Nat} (hbus : s.i2c.bus = .Addr a d n)
    (h : putAddress a d s = .next s') : StepBy s .pAddr s' := by
  simp only [putAddress, hbus, true_and] at h
  split at h <;> obtain rfl := Host.Outcome.next.inj h
  · rename_i hready
    exact .bus (.pAddr a d n hbus hready)
  · exact .hold

/-- The peripheral at an address byte (R208). -/
theorem exec_wireInstr_stepBy {s s' : State} {i : Instr} (hi : s.wireInstr = some i) (h : exec i s = .next s') :
    StepBy s .pAddr s' := by
  unfold State.wireInstr at hi
  split at hi
  · rename_i a d n hbus
    obtain rfl := Option.some.inj hi
    rw [decodeWire_wireByte] at h
    cases d with
    | W => exact putAddress_stepBy hbus h
    | R => exact putAddress_stepBy hbus h
  · cases hi

/-- An agent's step other than an instruction, where it is enabled. -/
theorem act_stepBy {s s' : State} (hf : s.fetch = none) (hen : s.enabled s.now.move = true)
    (h : act s.now.move s = .next s') : StepBy s s.now.move s' := by
  unfold State.fetch at hf
  generalize s.now.move = m at *
  cases m with
  | shell => exact act_shell_stepBy hf hen h
  | timer =>
    obtain rfl := Host.Outcome.next.inj h
    have hwait := hen
    simp only [State.enabled, State.timeoutEnabled, Bool.and_eq_true, beq_iff_eq] at hwait
    exact .engine (.waitTimeout hwait.1.1 hen)
  | usbSvc => obtain rfl := Host.Outcome.next.inj h; exact svcStep_stepBy s
  | isrI2cEv => obtain rfl := Host.Outcome.next.inj h; exact .engine (.isrI2cEv hen)
  | isrI2cEr => obtain rfl := Host.Outcome.next.inj h; exact .bus (.isrI2cEr hen)
  | isrDmaTx => obtain rfl := Host.Outcome.next.inj h; exact .engine (.isrDmaTx hen)
  | isrDmaRx => obtain rfl := Host.Outcome.next.inj h; exact .engine (.isrDmaRx hen)
  | isrUsb => obtain rfl := Host.Outcome.next.inj h; exact .transport (.isrUsb hen)
  | pStart => obtain rfl := Host.Outcome.next.inj h; exact .bus (.pStart hen)
  | pAddr => obtain rfl := Host.Outcome.next.inj h; exact .hold
  | pWbyte => obtain rfl := Host.Outcome.next.inj h; exact .bus (.pWbyte hen)
  | pRbyte => obtain rfl := Host.Outcome.next.inj h; exact .bus (.pRbyte hen)
  | pStop => obtain rfl := Host.Outcome.next.inj h; exact .bus (.pStop hen)
  | pDisable => obtain rfl := Host.Outcome.next.inj h; exact .bus (.pDisable hen)
  | pNoise => obtain rfl := Host.Outcome.next.inj h; exact .bus (.pNoise hen)
  | pStall => obtain rfl := Host.Outcome.next.inj h; exact .bus (.pStall hen)
  | dmaTx => obtain rfl := Host.Outcome.next.inj h; exact .bus (.dmaTx hen)
  | dmaRx => obtain rfl := Host.Outcome.next.inj h; exact .bus (.dmaRx hen)
  | hostOut => obtain rfl := Host.Outcome.next.inj h; exact .transport (hostOutStep_transportStep hen)
  | hostIn => obtain rfl := Host.Outcome.next.inj h; exact .transport (hostInStep_transportStep hen)
  | hostCtrl => obtain rfl := Host.Outcome.next.inj h; exact .transport .hostCtrl
  | client => obtain rfl := Host.Outcome.next.inj h; exact .hold

theorem State.accept_of_ne {s : State} (h : s.now.move ≠ .client) : s.accept = s := by simp [State.accept, h]

/-- The agent of the choice runs the instruction it is at. -/
theorem exec_fetch_stepBy {s s' : State} {i : Instr} (hf : s.fetch = some i) (h : exec i s.accept = .next s') :
    StepBy s s.now.move s' := by
  unfold State.fetch at hf
  split at hf
  · rename_i hm
    rw [State.accept_of_ne (by simp [hm])] at h
    exact hm ▸ .engine (exec_shellInstr_engineStep hf h)
  · rename_i hm
    obtain ⟨r, hr, rfl⟩ := Option.map_eq_some_iff.mp hf
    simp only [State.accept, hm, if_true] at h
    exact hm ▸ .engine (exec_request_engineStep hr hm h)
  · rename_i hm
    rw [State.accept_of_ne (by simp [hm])] at h
    exact hm ▸ exec_wireInstr_stepBy hf h
  · cases hf

/-- A step of the machine is, once its choice is taken up, a step of the list. -/
theorem step_stepBy {s s' : State} (h : step s = .next s') : StepBy s.takeChoice s.takeChoice.now.move s' := by
  obtain ⟨-, ⟨i, hi, h⟩ | ⟨hf, hen, h⟩ | ⟨-, -, rfl⟩⟩ := step_cases h
  · exact exec_fetch_stepBy hi h
  · exact act_stepBy hf hen h
  · exact .hold

/-- The state after taking up a choice, for a case analysis over the steps from it. -/
theorem step_stepBy_with {s s' : State} (h : step s = .next s') :
    ∃ sched now tick, (∀ c rest, s.sched = c :: rest → now = c) ∧
      StepBy { s with sched := sched, now := now, tick := tick } now.move s' := by
  refine ⟨s.takeChoice.sched, s.takeChoice.now, s.takeChoice.tick, ?_, s.takeChoice_eq ▸ step_stepBy h⟩
  intro c rest hs
  rw [State.takeChoice_cons hs]
  rfl

end Sys2Proof.Machine

/-!
PROOFS. What each part of the list leaves unchanged, and the two rules that follow from it alone: the trace, the
parameters and the line (O51), and the completion signal (O55).
-/

namespace Sys2Proof.Machine

/-! ## Frames -/

/-- The engine's steps leave the transport, the host, the trace and the Shell's line alone (R473). -/
theorem EngineStep.frame {s s' : State} {m : Move} (h : EngineStep s m s') :
    s' = { s' with
      cfg := s.cfg, ins := s.ins, outs := s.outs, usb := s.usb, host := s.host, trace := s.trace
      irqen := { s'.irqen with usb := s.irqen.usb }
      sh := { s'.sh with line := s.sh.line, recvd := s.sh.recvd } } := by
  cases h with
  | arm t => unfold armStep; cases t.dir <;> rfl
  | endma t => unfold endmaStep; cases t.dir <;> rfl
  | dmaoff t => unfold dmaoffStep; cases t.dir <;> rfl
  | _ => rfl

/-- The steps of the peripheral and the channels write these, the trace and a read byte's place in memory only (R473). -/
theorem BusStep.frame {s s' : State} {m : Move} (h : BusStep s m s') :
    s' = { s with i2c := s'.i2c, trace := s'.trace, tx := s'.tx, rx := s'.rx, mem := s'.mem } := by
  cases h with
  | pAddr a d n => unfold pAddrStep; split <;> rfl
  | pWbyte =>
    unfold pWbyteStep
    split
    · dsimp only; split <;> rfl
    · rfl
  | pRbyte => unfold pRbyteStep; split <;> rfl
  | pStop => unfold pStopStep; split <;> rfl
  | dmaTx => unfold dmaTxStep; split <;> rfl
  | dmaRx => unfold dmaRxStep; split <;> rfl
  | _ => rfl

/-- A pull writes the outbound stream, the IN endpoint and `sending` (R330). -/
theorem State.pull_eq (s : State) :
    s.pull = { s with
      outs := s.pull.outs, usb := { s.usb with epIn := s.pull.usb.epIn, sending := s.pull.usb.sending } } := by
  unfold State.pull
  split
  · rfl
  · dsimp only; split <;> rfl

/-- Handling an event writes the streams, the endpoints and the flow flags. -/
theorem handleEvent_eq (x : UsbEvent) (s : State) :
    handleEvent x s = { s with
      ins := (handleEvent x s).ins, outs := (handleEvent x s).outs, usb := (handleEvent x s).usb } := by
  cases x with
  | outRx =>
    unfold handleEvent outRxStep
    dsimp only
    split
    · split <;> rfl
    · rfl
  | inDone =>
    show s.pull = { s with ins := s.pull.ins, outs := s.pull.outs, usb := s.pull.usb }
    rw [s.pull_eq]
  | ctrl => rfl

/-- `recv`'s second step posts, and leaves the byte to the line (R303, R371-R373). -/
theorem recvPostStep_eq (c : Byte) (s : State) :
    recvPostStep c s = { s.post ⟨false, !s.usb.receiving, false⟩ with
      sh := { s.sh with recvd := none, line := (recvPostStep c s).sh.line, pos := (recvPostStep c s).sh.pos } } := by
  unfold recvPostStep handleByte
  split
  · split <;> rfl
  · split <;> rfl

/-- `send`'s second step posts, and may end the dispatch (R304, R371). -/
theorem sendPostStep_eq (s : State) :
    sendPostStep s = { s.post ⟨false, false, !s.usb.sending⟩ with
      sh := { s.sh with sendAtB := false, line := (sendPostStep s).sh.line, pos := (sendPostStep s).sh.pos } } := by
  unfold sendPostStep
  dsimp only
  split <;> rfl

/-- A kick clears its flag, and pulls while nothing is being sent (R331). -/
theorem sendResumeStep_eq (s : State) :
    sendResumeStep s = { s with outs := (sendResumeStep s).outs, usb := (sendResumeStep s).usb } := by
  unfold sendResumeStep
  dsimp only
  split
  · rfl
  · rw [State.pull_eq]

/-- The steps of the transport write the streams, its flags and endpoints, the Shell, the host and the USB interrupt's
enable only (R473). -/
theorem TransportStep.frame {s s' : State} {m : Move} (h : TransportStep s m s') :
    s' = { s with
      ins := s'.ins, outs := s'.outs, usb := s'.usb, sh := s'.sh, host := s'.host
      irqen := { s.irqen with usb := s'.irqen.usb } } := by
  cases h with
  | recvPost c => rw [recvPostStep_eq]; rfl
  | sendPost => rw [sendPostStep_eq]; rfl
  | pollEvent x => rw [handleEvent_eq]
  | recvResume => unfold recvResumeStep; dsimp only; split <;> rfl
  | sendResume => rw [sendResumeStep_eq]
  | hostOut p ps => unfold hostOutStep; split <;> rfl
  | hostIn p => unfold hostInStep; split <;> rfl
  | _ => rfl

/-! ## The trace, the parameters and the line (R59, R10, R71) -/

/-- The bus's steps append to the trace or leave it (R59). -/
theorem BusStep.trace_prefix {s s' : State} {m : Move} (h : BusStep s m s') : s.trace <+: s'.trace := by
  cases h with
  | pStart => exact List.prefix_append _ _
  | pAddr a d n =>
    unfold pAddrStep
    split
    · exact List.prefix_append _ _
    · exact (List.prefix_append _ _).trans (List.prefix_append _ _)
  | pWbyte =>
    unfold pWbyteStep
    split
    · dsimp only
      split
      · exact (List.prefix_append _ _).trans (List.prefix_append _ _)
      · exact List.prefix_append _ _
    · exact List.prefix_rfl
  | pRbyte =>
    unfold pRbyteStep
    split
    · exact List.prefix_append _ _
    · exact List.prefix_rfl
  | pStop =>
    unfold pStopStep
    split
    · exact List.prefix_rfl
    · exact List.prefix_append _ _
  | pDisable =>
    unfold pDisableStep
    dsimp only
    split
    · exact List.prefix_rfl
    · exact List.prefix_append _ _
  | dmaTx => unfold dmaTxStep; split <;> exact List.prefix_rfl
  | dmaRx => unfold dmaRxStep; split <;> exact List.prefix_rfl
  | isrI2cEr | pNoise | pStall => exact List.prefix_rfl

/-- Every step appends to the trace or leaves it (R59). -/
theorem StepBy.trace_prefix {s s' : State} {m : Move} (h : StepBy s m s') : s.trace <+: s'.trace := by
  cases h with
  | hold => exact List.prefix_rfl
  | engine h => rw [h.frame]
  | bus h => exact h.trace_prefix
  | transport h => rw [h.frame]

/-- No step writes the parameters (R10, log 4). -/
theorem StepBy.cfg_eq {s s' : State} {m : Move} (h : StepBy s m s') : s'.cfg = s.cfg := by
  cases h with
  | hold => rfl
  | engine h => rw [h.frame]
  | bus h => rw [h.frame]
  | transport h => rw [h.frame]

/-- Keeping a byte stays within the line's capacity (R373). -/
theorem Line.append_within {cap : Nat} {l : Line} {c : Byte} (hbytes : l.bytes.length = cap) (hlen : l.len ≤ cap) :
    (l.append cap c).bytes.length = cap ∧ (l.append cap c).len ≤ cap := by
  unfold Line.append
  split
  · exact ⟨by simpa using hbytes, by simpa⟩
  · exact ⟨hbytes, hlen⟩

/-- The transport's steps keep the line within LINE_CAP (R71). -/
theorem TransportStep.keeps_lineOk {s s' : State} {m : Move} (h : TransportStep s m s') (hl : LineOk s) :
    LineOk s' := by
  cases h with
  | recvPost c =>
    unfold recvPostStep handleByte
    split
    · split <;> exact hl
    · split
      · exact Line.append_within hl.1 hl.2
      · exact hl
  | sendPost =>
    unfold sendPostStep
    dsimp only
    split
    · exact ⟨hl.1, Nat.zero_le _⟩
    · exact hl
  | pollEvent x => rw [handleEvent_eq]; exact hl
  | recvResume => unfold recvResumeStep; dsimp only; split <;> exact hl
  | sendResume => rw [sendResumeStep_eq]; exact hl
  | hostOut p ps => unfold hostOutStep; split <;> exact hl
  | hostIn p => unfold hostInStep; split <;> exact hl
  | _ => exact hl

/-- Every step keeps the line within LINE_CAP (R71). -/
theorem StepBy.keeps_lineOk {s s' : State} {m : Move} (h : StepBy s m s') (hl : LineOk s) : LineOk s' := by
  cases h with
  | hold => exact hl
  | engine h => rw [h.frame]; exact hl
  | bus h => rw [h.frame]; exact hl
  | transport h => exact h.keeps_lineOk hl

/-- Settles O51: only the peripheral's steps write the trace, and they append; no part of a step writes the parameters. -/
theorem traceGrowsParametersFixed : Obligations.TraceGrowsParametersFixed := by
  intro s s' h
  obtain ⟨sched, now, tick, -, hstep⟩ := step_stepBy_with h
  obtain ⟨es, hes⟩ := hstep.trace_prefix
  exact ⟨⟨es, hes.symm⟩, hstep.cfg_eq, hstep.keeps_lineOk⟩

/-! ## The completion signal (R44, R203, R453, R455) -/

/-- The signal is cleared by DRAIN and by the take of WAIT. -/
theorem EngineStep.sem_cleared {s s' : State} {m : Move} (h : EngineStep s m s') (hs : s.sem = true)
    (hs' : s'.sem = false) : m = .shell ∧ (s.phase = .DRAIN ∨ s.phase = .WAIT) := by
  cases h with
  | drain hp => exact ⟨rfl, .inl hp⟩
  | waitTake hp => exact ⟨rfl, .inr hp⟩
  | arm t => simp [armStep, hs] at hs'
  | endma t => simp [endmaStep, hs] at hs'
  | dmaoff t => simp [dmaoffStep, hs] at hs'
  | isrI2cEv | isrDmaTx | isrDmaRx => cases hs'
  | _ => exact absurd (hs.symm.trans hs') (by decide)

/-- The signal is set by the handlers that give. -/
theorem EngineStep.sem_set {s s' : State} {m : Move} (h : EngineStep s m s') (hs : s.sem = false)
    (hs' : s'.sem = true) : m = .isrI2cEv ∨ m = .isrDmaTx ∨ m = .isrDmaRx := by
  cases h with
  | isrI2cEv => exact .inl rfl
  | isrDmaTx => exact .inr (.inl rfl)
  | isrDmaRx => exact .inr (.inr rfl)
  | arm t => simp [armStep, hs] at hs'
  | endma t => simp [endmaStep, hs] at hs'
  | dmaoff t => simp [dmaoffStep, hs] at hs'
  | drain | waitTake => cases hs'
  | _ => exact absurd (hs.symm.trans hs') (by decide)

/-- Settles O55: no step of the bus or the transport touches the signal, and of the engine's only these do. -/
theorem signalSetAndCleared : Obligations.SignalSetAndCleared := by
  intro s s' m d rest hsched h
  obtain ⟨sched, now, tick, hnow, hstep⟩ := step_stepBy_with h
  obtain rfl := hnow _ _ hsched
  have unchanged : s'.sem = s.sem →
      (s.sem = true → s'.sem = false → m = .shell ∧ (s.phase = .DRAIN ∨ s.phase = .WAIT)) ∧
      (s.sem = false → s'.sem = true → m = .isrI2cEv ∨ m = .isrDmaTx ∨ m = .isrDmaRx) := by
    intro heq
    rw [heq]
    exact ⟨fun h1 h0 => absurd (h1.symm.trans h0) (by decide), fun h0 h1 => absurd (h0.symm.trans h1) (by decide)⟩
  cases hstep with
  | hold => exact unchanged rfl
  | engine h => exact ⟨h.sem_cleared, h.sem_set⟩
  | bus h => exact unchanged (by rw [h.frame])
  | transport h => exact unchanged (by rw [h.frame])

end Sys2Proof.Machine

/-!
PROOFS. The transport's invariant and what is owed wherever an agent waits (O48): each step of the transport keeps both,
the steps of the bus and the engine leave the transport alone.
-/

namespace Sys2Proof.Machine

/-! ## Streams -/

/-- A put that fits keeps a stream in order (R64, R300). -/
theorem StreamOk.put {cap : Nat} {q : ByteStream} {p : List Byte} (h : StreamOk cap q)
    (hfit : q.count + p.length ≤ cap) : StreamOk cap (q.put cap p) := by
  obtain ⟨hbuf, hrd, -, hwr⟩ := h
  refine ⟨by simpa [ByteStream.put] using hbuf, hrd, hfit, ?_⟩
  simp only [ByteStream.put, hwr, Nat.mod_add_mod, Nat.add_assoc]

/-- A get of bytes that are there keeps a stream in order (R64, R301). -/
theorem StreamOk.drop {cap : Nat} {q : ByteStream} {k : Nat} (h : StreamOk cap q) (hk : k ≤ q.count) :
    StreamOk cap (q.drop cap k) := by
  obtain ⟨hbuf, hrd, hcount, hwr⟩ := h
  refine ⟨hbuf, Nat.mod_lt _ (by omega), (Nat.sub_le _ _).trans hcount, ?_⟩
  simp only [ByteStream.drop, hwr, Nat.mod_add_mod]
  congr 1
  omega

/-! ## The transport's invariant, step by step -/

/-- An endpoint that is not held off is one that receives (R65). -/
theorem TransportOk.receiving {s : State} (h : TransportOk s) (hne : s.usb.epOut ≠ .Nak) : s.usb.receiving = true := by
  obtain ⟨-, -, -, -, -, -, hnak, -, -⟩ := h
  exact Bool.of_not_eq_false fun hr => hne (hnak.mp hr)

theorem recvTakeStep_transportOk {s : State} (hcount : 1 ≤ s.ins.count) (h : TransportOk s) :
    TransportOk (recvTakeStep s) := by
  obtain ⟨hmps, hin, hout, hins, houts, hroom, hrest⟩ := h
  refine ⟨hmps, hin, hout, hins.drop hcount, houts, fun hr => (hroom hr).trans ?_, hrest⟩
  exact Nat.sub_le_sub_left (Nat.sub_le _ _) _

theorem sendPutStep_transportOk {s : State} (h : TransportOk s) : TransportOk (sendPutStep s) := by
  obtain ⟨hmps, hin, hout, hins, houts, hrest⟩ := h
  have hcount := houts.2.2.1
  refine ⟨hmps, hin, hout, hins, houts.put ?_, hrest⟩
  rw [List.length_take]
  omega

/-- A pull keeps the outbound stream in order, and queues a packet of legal size (R330, R69). -/
theorem State.pull_transportOk {s : State} (h : TransportOk s) : TransportOk s.pull := by
  unfold State.pull
  split
  · exact h
  · dsimp only
    split
    · exact h
    · rename_i hn
      obtain ⟨hmps, hin, hout, hins, houts, hroom, hnak, hepOut, -⟩ := h
      refine ⟨hmps, hin, hout, hins, houts.drop (Nat.min_le_left _ _), hroom, hnak, hepOut, ?_⟩
      simp only [epInFits, ByteStream.peek_length, Bool.and_eq_true, decide_eq_true_eq]
      omega

/-- A packet that fits leaves room for another, or the endpoint is held off (R309, R311). -/
theorem outRxStep_transportOk {s : State} (hfit : ∀ p, s.usb.epOut = .Full p → s.ins.count + p.length ≤ s.cfg.capIn)
    (h : TransportOk s) : TransportOk (outRxStep s) := by
  unfold outRxStep
  split
  · rename_i p hp
    have hreceiving : s.usb.receiving = true := h.receiving (by simp [hp])
    obtain ⟨hmps, hin, hout, hins, houts, -, -, -, hepIn⟩ := h
    have hput := hins.put (hfit p hp)
    dsimp only
    split
    · exact ⟨hmps, hin, hout, hput, houts, by simp, by simp, rfl, hepIn⟩
    · rename_i hroom
      exact ⟨hmps, hin, hout, hput, houts, fun _ => Nat.le_of_not_lt hroom, by simp [hreceiving], rfl, hepIn⟩
  · exact h

/-- The receive side is resumed where there is room (R310). -/
theorem recvResumeStep_transportOk {s : State} (h : TransportOk s) : TransportOk (recvResumeStep s) := by
  unfold recvResumeStep
  dsimp only
  split
  · rename_i hroom
    obtain ⟨hmps, hin, hout, hins, houts, -, -, -, hepIn⟩ := h
    exact ⟨hmps, hin, hout, hins, houts, fun _ => hroom.2, by simp, rfl, hepIn⟩
  · exact h

theorem sendResumeStep_transportOk {s : State} (h : TransportOk s) : TransportOk (sendResumeStep s) := by
  unfold sendResumeStep
  dsimp only
  split
  · exact h
  · exact State.pull_transportOk h

/-- A packet enters the endpoint where it is valid (R308). -/
theorem hostOutStep_transportOk {s : State} {p : List Byte} {ps : List (List Byte)} (hvalid : s.usb.epOut = .Valid)
    (htx : s.host.tx = p :: ps) (hlen : p.length ≤ s.cfg.mps) (h : TransportOk s) : TransportOk (hostOutStep s) := by
  have hreceiving : s.usb.receiving = true := h.receiving (by simp [hvalid])
  obtain ⟨hmps, hin, hout, hins, houts, hroom, -, -, hepIn⟩ := h
  simp only [hostOutStep, htx]
  exact ⟨hmps, hin, hout, hins, houts, hroom, by simp [hreceiving], by simpa [epOutFits] using hlen, hepIn⟩

theorem hostInStep_transportOk {s : State} (h : TransportOk s) : TransportOk (hostInStep s) := by
  unfold hostInStep
  split
  · obtain ⟨hmps, hin, hout, hins, houts, hroom, hnak, hepOut, -⟩ := h
    exact ⟨hmps, hin, hout, hins, houts, hroom, hnak, hepOut, rfl⟩
  · exact h

/-- Every step of the transport keeps its invariant. -/
theorem TransportStep.keeps_transportOk {s s' : State} {m : Move} (h : TransportStep s m s') (ht : TransportOk s) :
    TransportOk s' := by
  cases h with
  | recvTake _ _ hcount => exact recvTakeStep_transportOk hcount ht
  | recvPost c => rw [recvPostStep_eq]; exact ht
  | sendPut => exact sendPutStep_transportOk ht
  | sendPost => rw [sendPostStep_eq]; exact ht
  | pollEvent x _ hx =>
    cases x with
    | outRx => exact outRxStep_transportOk (fun p hp => State.outRx_ready_fits (s := s) hx hp) ht
    | inDone => exact State.pull_transportOk ht
    | ctrl => exact ht
  | recvResume => exact recvResumeStep_transportOk ht
  | sendResume => exact sendResumeStep_transportOk ht
  | hostOut p ps hvalid htx hlen => exact hostOutStep_transportOk hvalid htx hlen ht
  | hostIn => exact hostInStep_transportOk ht
  | pollEnd | takeAll | isrUsb | hostCtrl => exact ht

/-- Every step keeps the transport's invariant. -/
theorem StepBy.keeps_transportOk {s s' : State} {m : Move} (h : StepBy s m s') (ht : TransportOk s) :
    TransportOk s' := by
  cases h with
  | hold => exact ht
  | engine h => rw [h.frame]; exact ht
  | bus h => rw [h.frame]; exact ht
  | transport h => exact h.keeps_transportOk ht

/-! ## What is owed -/

/-- What is owed stays owed when more is posted (R67). -/
theorem Usb.owes_post {u : Usb} {f : Pending} {flag : Pending → Bool}
    (hflag : ∀ p q : Pending, flag (p.union q) = (flag p || flag q)) (h : u.owes flag = true) :
    Usb.owes { u with pending := u.pending.union f } flag = true := by
  simp only [Usb.owes, hflag, Bool.or_eq_true] at h ⊢
  tauto

/-- What is posted is owed. -/
theorem Usb.owes_posted {u : Usb} {f : Pending} {flag : Pending → Bool}
    (hflag : ∀ p q : Pending, flag (p.union q) = (flag p || flag q)) (h : flag f = true) :
    Usb.owes { u with pending := u.pending.union f } flag = true := by
  simp [Usb.owes, hflag, h]

/-- What was pending is owed after the take-all (R306). -/
theorem takeAllStep_owes {s : State} {flag : Pending → Bool} (hflag : flag Pending.empty = false)
    (htaken : s.usb.taken = Pending.empty) (h : s.usb.owes flag = true) : (takeAllStep s).usb.owes flag = true := by
  simpa [Usb.owes, takeAllStep, htaken, hflag] using h

/-- After a pull that leaves `sending`, a packet is in the endpoint (R330). -/
theorem State.pull_epIn_of_sending {s : State} (h : s.pull.usb.sending = true) : s.pull.usb.epIn ≠ .Free := by
  unfold State.pull at h ⊢
  split
  · rename_i p hp
    simp [hp]
  · rename_i hfree
    simp only [hfree] at h ⊢
    split
    · rename_i hn
      simp [hn] at h
    · simp

/-- After a pull that leaves bytes in the stream, a packet is in the endpoint (R330). -/
theorem State.pull_epIn_of_count {s : State} (hmps : 1 ≤ s.cfg.mps) (h : 1 ≤ s.pull.outs.count) :
    s.pull.usb.epIn ≠ .Free := by
  unfold State.pull at h ⊢
  split
  · rename_i p hp
    simp [hp]
  · rename_i hfree
    simp only [hfree] at h ⊢
    split
    · rename_i hn
      simp only [hn, if_true] at h
      omega
    · simp

/-! ## What is owed, step by step -/

theorem recvTakeStep_flowOk {s : State} (h : FlowOk s) : FlowOk (recvTakeStep s) := by
  obtain ⟨hsend, hbytes, hcall, hirq, -, hann, htx⟩ := h
  exact ⟨hsend, hbytes, hcall, hirq, fun _ => .inr (.inr (by simp [recvTakeStep, ByteStream.peek])), hann, htx⟩

/-- The byte taken is answered by the post of RECV_RESUME while the endpoint is held off (R303). -/
theorem recvPostStep_flowOk {s : State} {c : Byte} (hphase : s.phase = .IDLE) (hread : s.sh.pos = .READING)
    (h : FlowOk s) : FlowOk (recvPostStep c s) := by
  obtain ⟨hsend, hbytes, hcall, hirq, -, hann, htx⟩ := h
  rw [recvPostStep_eq]
  refine ⟨hsend, fun hcount hs => ?_, fun c hc => absurd hphase (hcall c hc).1,
    fun hi => Usb.owes_post (fun _ _ => rfl) (hirq hi), fun hr => ?_, hann, htx⟩
  · obtain hk | ⟨hrep, -⟩ | hin := hbytes hcount hs
    · exact .inl (Usb.owes_post (fun _ _ => rfl) hk)
    · simp [hread] at hrep
    · exact .inr (.inr hin)
  · have hr : s.usb.receiving = false := hr
    exact .inr (.inl (Usb.owes_posted (fun _ _ => rfl) (by simp [hr])))

theorem sendPutStep_flowOk {s : State} (hrep : s.sh.pos = .REPLYING) (h : FlowOk s) : FlowOk (sendPutStep s) := by
  obtain ⟨hsend, -, hcall, hirq, hrecv, hann, htx⟩ := h
  exact ⟨hsend, fun _ _ => .inr (.inl ⟨hrep, rfl⟩), hcall, hirq, hrecv, hann, htx⟩

/-- The bytes put are answered by the post of SEND_RESUME while nothing is being sent (R304). -/
theorem sendPostStep_flowOk {s : State} (hphase : s.phase = .IDLE) (h : FlowOk s) : FlowOk (sendPostStep s) := by
  obtain ⟨hsend, -, hcall, hirq, hrecv, hann, htx⟩ := h
  rw [sendPostStep_eq]
  refine ⟨hsend, fun _ hs => ?_, fun c hc => absurd hphase (hcall c hc).1,
    fun hi => Usb.owes_post (fun _ _ => rfl) (hirq hi), fun hr => ?_, hann, htx⟩
  · have hs : s.usb.sending = false := hs
    exact .inl (Usb.owes_posted (fun _ _ => rfl) (by simp [hs]))
  · obtain hroom | hk | hb := hrecv hr
    · exact .inl hroom
    · exact .inr (.inl (Usb.owes_post (fun _ _ => rfl) hk))
    · exact .inr (.inr hb)

/-- A packet's event takes the packet with it (R309). -/
theorem pollOutRx_flowOk {s : State} (ht : TransportOk s) (h : FlowOk s) :
    FlowOk (outRxStep { s with usb := { s.usb with events := s.usb.events.remove .outRx } }) := by
  obtain ⟨hsend, hbytes, hcall, hirq, hrecv, hann, htx⟩ := h
  unfold outRxStep
  split
  · rename_i p hp
    have hreceiving : s.usb.receiving = true := ht.receiving (by simp_all)
    dsimp only
    split
    · rename_i hroom
      exact ⟨hsend, hbytes, hcall, hirq, fun _ => .inl hroom, rfl, htx⟩
    · exact ⟨hsend, hbytes, hcall, hirq, fun hr => absurd (hreceiving.symm.trans hr) (by decide), rfl, htx⟩
  · rename_i hnot
    refine ⟨hsend, hbytes, hcall, hirq, hrecv, ?_, htx⟩
    unfold Usb.announced
    split
    · rename_i p hp
      exact absurd hp (hnot p)
    · rfl

/-- A pull with an event or a flag spent: the packet it queues, or finds queued, has an IN_DONE coming (R330-R332). -/
theorem State.pull_flowOk {s : State} (hmps : 1 ≤ s.cfg.mps)
    (hcall : ∀ c ∈ s.call, s.phase ≠ .IDLE ∧ (c.reply ≠ .silent → s.sh.pos = .DISPATCH))
    (hirq : s.irqen.usb = false → s.usb.owes Pending.poll = true)
    (hrecv : s.usb.receiving = false → s.insRoom < s.cfg.mps ∨ s.usb.owes Pending.recvResume = true ∨ s.sh.recvd ≠ none)
    (hann : s.usb.announced = true) (htx : ∀ p ∈ s.host.tx, p.length ≤ s.cfg.mps) : FlowOk s.pull := by
  refine ⟨fun hs => .inl (State.pull_epIn_of_sending hs),
    fun hc _ => .inr (.inr (.inl (State.pull_epIn_of_count hmps hc))), ?_⟩
  rw [State.pull_eq]
  exact ⟨hcall, hirq, hrecv, hann, htx⟩

theorem pollInDone_flowOk {s : State} (hmps : 1 ≤ s.cfg.mps) (h : FlowOk s) :
    FlowOk (inDoneStep { s with usb := { s.usb with events := s.usb.events.remove .inDone } }) := by
  obtain ⟨-, -, hcall, hirq, hrecv, hann, htx⟩ := h
  exact State.pull_flowOk hmps hcall hirq hrecv hann htx

theorem pollEnd_flowOk {s : State} (h : FlowOk s) : FlowOk (pollEnd s) := by
  obtain ⟨hsend, hbytes, hcall, -, hrecv, hann, htx⟩ := h
  exact ⟨hsend, hbytes, hcall, nofun, hrecv, hann, htx⟩

/-- A recv-resume that leaves the endpoint held off has found no room (R310). -/
theorem recvResumeStep_flowOk {s : State} (h : FlowOk s) : FlowOk (recvResumeStep s) := by
  obtain ⟨hsend, hbytes, hcall, hirq, -, hann, htx⟩ := h
  unfold recvResumeStep
  dsimp only
  split
  · exact ⟨hsend, hbytes, hcall, hirq, nofun, rfl, htx⟩
  · rename_i hroom
    exact ⟨hsend, hbytes, hcall, hirq, fun hr => .inl (Nat.lt_of_not_le fun hle => hroom ⟨hr, hle⟩), hann, htx⟩

theorem sendResumeStep_flowOk {s : State} (hmps : 1 ≤ s.cfg.mps) (h : FlowOk s) : FlowOk (sendResumeStep s) := by
  obtain ⟨hsend, -, hcall, hirq, hrecv, hann, htx⟩ := h
  unfold sendResumeStep
  dsimp only
  split
  · rename_i hs
    exact ⟨hsend, fun _ hs' => absurd (hs.symm.trans hs') (by decide), hcall, hirq, hrecv, hann, htx⟩
  · exact State.pull_flowOk hmps hcall hirq hrecv hann htx

theorem takeAllStep_flowOk {s : State} (htaken : s.usb.taken = Pending.empty) (h : FlowOk s) :
    FlowOk (takeAllStep s) := by
  obtain ⟨hsend, hbytes, hcall, hirq, hrecv, hann, htx⟩ := h
  refine ⟨hsend, fun hcount hs => (hbytes hcount hs).imp_left (takeAllStep_owes rfl htaken), hcall,
    fun hi => takeAllStep_owes rfl htaken (hirq hi), fun hr => ?_, hann, htx⟩
  exact (hrecv hr).imp_right (Or.imp_left (takeAllStep_owes rfl htaken))

/-- The USB handler posts the POLL that re-enables its interrupt (R449). -/
theorem isrUsbStep_flowOk {s : State} (h : FlowOk s) : FlowOk (isrUsbStep s) := by
  obtain ⟨hsend, hbytes, hcall, -, hrecv, hann, htx⟩ := h
  refine ⟨hsend, fun hcount hs => (hbytes hcount hs).imp_left (Usb.owes_post fun _ _ => rfl), hcall,
    fun _ => Usb.owes_posted (fun _ _ => rfl) rfl, fun hr => ?_, hann, htx⟩
  exact (hrecv hr).imp_right (Or.imp_left (Usb.owes_post fun _ _ => rfl))

theorem hostOutStep_flowOk {s : State} {p : List Byte} {ps : List (List Byte)} (hps : s.host.tx = p :: ps)
    (h : FlowOk s) : FlowOk (hostOutStep s) := by
  obtain ⟨hsend, hbytes, hcall, hirq, hrecv, -, htx⟩ := h
  simp only [hostOutStep, hps]
  exact ⟨hsend, hbytes, hcall, hirq, hrecv, rfl, fun q hq => htx q (hps ▸ List.mem_cons_of_mem p hq)⟩

theorem hostInStep_flowOk {s : State} {p : List Byte} (hp : s.usb.epIn = .Busy p) (h : FlowOk s) :
    FlowOk (hostInStep s) := by
  obtain ⟨-, -, hcall, hirq, hrecv, hann, htx⟩ := h
  simp only [hostInStep, hp]
  exact ⟨fun _ => .inr rfl, fun _ _ => .inr (.inr (.inr rfl)), hcall, hirq, hrecv, hann, htx⟩

/-- Every step of the transport keeps what is owed. -/
theorem TransportStep.keeps_flowOk {s s' : State} {m : Move} (h : TransportStep s m s') (ht : TransportOk s)
    (hf : FlowOk s) : FlowOk s' := by
  have hmps : 1 ≤ s.cfg.mps := ht.1
  cases h with
  | recvTake => exact recvTakeStep_flowOk hf
  | recvPost c hphase hread => exact recvPostStep_flowOk hphase hread hf
  | sendPut _ hrep => exact sendPutStep_flowOk hrep hf
  | sendPost hphase => exact sendPostStep_flowOk hphase hf
  | pollEvent x =>
    cases x with
    | outRx => exact pollOutRx_flowOk ht hf
    | inDone => exact pollInDone_flowOk hmps hf
    | ctrl => exact hf
  | pollEnd => exact pollEnd_flowOk hf
  | recvResume => exact recvResumeStep_flowOk hf
  | sendResume => exact sendResumeStep_flowOk hmps hf
  | takeAll htaken => exact takeAllStep_flowOk htaken hf
  | isrUsb => exact isrUsbStep_flowOk hf
  | hostOut p ps _ hps => exact hostOutStep_flowOk hps hf
  | hostIn p hp => exact hostInStep_flowOk hp hf
  | hostCtrl => exact hf

/-! ## What is owed, and the engine -/

/-- The Shell's part of the engine's steps: a reply begins where the Shell stands at a dispatch, or at the call that a
line's dispatch made; else nothing changes. -/
theorem EngineStep.sh_eq_or_dispatch {s s' : State} {m : Move} (h : EngineStep s m s')
    (hcall : ∀ c ∈ s.call, s.phase ≠ .IDLE ∧ (c.reply ≠ .silent → s.sh.pos = .DISPATCH)) :
    s'.sh = s.sh ∨ s.sh.pos = .DISPATCH := by
  cases h with
  | reply _ _ _ _ hpos => exact .inr hpos
  | rearmReply c _ _ _ _ _ hc hr => exact .inr ((hcall c hc).2 hr)
  | arm t => exact .inl (by simp [armStep])
  | endma t => exact .inl (by simp [endmaStep])
  | dmaoff t => exact .inl (by simp [dmaoffStep])
  | _ => exact .inl rfl

/-- A call that owes a reply is one that a line being dispatched made, and no call outlasts its phases (R374, log 13). -/
theorem EngineStep.call_owned {s s' : State} {m : Move} (h : EngineStep s m s')
    (hcall : ∀ c ∈ s.call, s.phase ≠ .IDLE ∧ (c.reply ≠ .silent → s.sh.pos = .DISPATCH)) :
    ∀ c ∈ s'.call, s'.phase ≠ .IDLE ∧ (c.reply ≠ .silent → s'.sh.pos = .DISPATCH) := by
  cases h with
  | reply _ _ _ hphase => exact fun c hc => absurd hphase (hcall c hc).1
  | lineCall _ _ _ hpos => exact fun _ _ => ⟨nofun, fun _ => hpos⟩
  | clientCall r c _ _ _ _ hsilent =>
    intro c' hc'
    obtain rfl := Option.some.inj hc'
    exact ⟨nofun, fun hr => absurd hsilent hr⟩
  | arm t => simpa [armStep] using fun c hc => (hcall c hc).2
  | endma t => simpa [endmaStep] using fun c hc => (hcall c hc).2
  | dmaoff t =>
    simp only [dmaoffStep, State.setPhase_call, State.setChan_call, State.setPhase_sh, State.setChan_sh,
      State.setPhase_phase]
    exact fun c hc => ⟨by split <;> nofun, (hcall c hc).2⟩
  | rearmAlone _ _ _ hnone => exact fun c hc => nomatch hnone.symm.trans hc
  | rearmChunk c _ _ _ hc =>
    intro c' hc'
    obtain rfl := Option.some.inj hc'
    exact ⟨nofun, (hcall c hc).2⟩
  | rearmXfer c _ _ _ _ hc =>
    intro c' hc'
    obtain rfl := Option.some.inj hc'
    exact ⟨nofun, (hcall c hc).2⟩
  | rearmSilent | rearmReply => exact nofun
  | isrI2cEv | isrDmaTx | isrDmaRx => exact hcall
  | _ => exact fun c hc => ⟨nofun, (hcall c hc).2⟩

/-- Every step of the engine keeps what is owed: it touches the transport nowhere, and begins no reply while `send` is to
post. -/
theorem EngineStep.keeps_flowOk {s s' : State} {m : Move} (h : EngineStep s m s') (hf : FlowOk s) : FlowOk s' := by
  obtain ⟨hsend, hbytes, hcall, hirq, hrecv, hann, htx⟩ := hf
  have howned := h.call_owned hcall
  have hsh := h.sh_eq_or_dispatch hcall
  refine ⟨by rw [h.frame]; exact hsend, ?_, howned, by rw [h.frame]; exact hirq, by rw [h.frame]; exact hrecv,
    by rw [h.frame]; exact hann, by rw [h.frame]; exact htx⟩
  have houts : s'.outs = s.outs := by rw [h.frame]
  have husb : s'.usb = s.usb := by rw [h.frame]
  rw [houts, husb]
  intro hcount hs
  obtain heq | hdis := hsh
  · rw [heq]; exact hbytes hcount hs
  · exact (hbytes hcount hs).imp_right (Or.imp_left fun hrep => by simp [hdis] at hrep)

/-- Every step keeps what is owed. -/
theorem StepBy.keeps_flowOk {s s' : State} {m : Move} (h : StepBy s m s') (ht : TransportOk s) (hf : FlowOk s) :
    FlowOk s' := by
  cases h with
  | hold => exact hf
  | engine h => exact h.keeps_flowOk hf
  | bus h => rw [h.frame]; exact hf
  | transport h => exact h.keeps_flowOk ht hf

/-- Settles O48, by cases over the steps. -/
theorem transportInvariantKept : Obligations.TransportInvariantKept := by
  intro s s' ht h
  obtain ⟨sched, now, tick, -, hstep⟩ := step_stepBy_with h
  exact ⟨hstep.keeps_transportOk ht, hstep.keeps_flowOk ht⟩

end Sys2Proof.Machine

/-!
PROOFS. The engine's invariant (O49), one clause after another: the chunk's record and result, the channels, the
peripheral's enable, the bus, and the start request.
-/

namespace Sys2Proof.Machine

/-! ## The chunk due -/

theorem Call.dueLen_le (c : Call) : c.dueLen ≤ 255 := Nat.min_le_left _ _

/-- A chunk is due that has a byte exactly where the offset is inside the transfer (R260). -/
theorem Call.dueLen_pos {c : Call} : 1 ≤ c.dueLen ↔ c.off < c.cur.len := by
  unfold Call.dueLen Config.chunkMax
  omega

/-- A chunk that is not the transfer's last has 255 bytes (R261). -/
theorem Call.dueLen_of_more {c : Call} (h : c.off + c.dueLen < c.cur.len) : c.dueLen = 255 := by
  unfold Call.dueLen Config.chunkMax at *
  omega

/-- The count register holds a chunk's length (R200, R201). -/
theorem Call.dueLen_toNat (c : Call) : (BitVec.ofNat 8 c.dueLen).toNat = c.dueLen := by
  have := c.dueLen_le
  rw [BitVec.toNat_ofNat]
  omega

theorem callOk_iff {p : Params} {ph : Phase} {total : Nat} {c : Call} :
    callOk p ph total c = true ↔
      XferOk p c.cur ∧ (c.off < c.cur.len ∨ EmptySecond ph c) ∧ c.off % 255 = 0 ∧ total = c.off ∧
        ∀ x ∈ c.next, XferOk p x := by
  unfold callOk Config.chunkMax
  exact decide_eq_true_iff

/-- In a chunk the offset is inside the transfer: an empty second phase never passes its CONFIG (log 34). -/
theorem callOk_inside {p : Params} {ph : Phase} {total : Nat} {c : Call} (hph : ph.inChunk = true)
    (h : callOk p ph total c = true) : c.off < c.cur.len := by
  obtain ⟨-, hin | ⟨rfl, -⟩, -⟩ := callOk_iff.mp h
  · exact hin
  · cases hph

/-- The clause on the call speaks of the phase for an empty second phase only. -/
theorem callOk_of_inside {p : Params} {ph ph' : Phase} {total : Nat} {c : Call} (hin : c.off < c.cur.len)
    (h : callOk p ph total c = true) : callOk p ph' total c = true := by
  obtain ⟨hmem, -, hrest⟩ := callOk_iff.mp h
  exact callOk_iff.mpr ⟨hmem, .inl hin, hrest⟩

/-- A transfer at its begin (R260): its first chunk is due, or it is an empty second phase. -/
theorem callOk_begin {p : Params} {c : Call} (hmem : XferOk p c.cur) (hlen : 1 ≤ c.cur.len ∨ c.next = none)
    (hnext : ∀ x ∈ c.next, XferOk p x) : callOk p .CONFIG 0 { c with off := 0 } = true := by
  refine callOk_iff.mpr ⟨hmem, ?_, rfl, rfl, hnext⟩
  by_cases h0 : c.cur.len = 0
  · exact .inr ⟨rfl, h0, rfl, hlen.resolve_left (by omega)⟩
  · exact .inl (Nat.pos_of_ne_zero h0)

/-! ## The record and the result -/

/-- The record and the result of a chunk of the call `c` (R201, R219, R229). -/
structure RecordOk (s : State) (c : Call) (t : Txn) : Prop where
  isDue : txnMatches s.cfg c t = true
  nbytes : s.i2c.nbytes = t.n
  result : s.phase.evaluated = true → s.eng.res = 0 ∨ s.eng.res = t.n
  failed : s.phase.resetting = true → s.eng.res = 0

theorem recordOk_iff {s : State} {c : Call} {t : Txn} :
    RecordOk s c t ↔ txnMatches s.cfg c t = true ∧ s.i2c.nbytes = t.n ∧
      (s.phase.evaluated = true → s.eng.res = 0 ∨ s.eng.res = t.n) ∧ (s.phase.resetting = true → s.eng.res = 0) :=
  ⟨fun ⟨hdue, hn, hres, hfail⟩ => ⟨hdue, hn, hres, hfail⟩, fun ⟨hdue, hn, hres, hfail⟩ => ⟨hdue, hn, hres, hfail⟩⟩

/-- The record's length is that of the chunk due. -/
theorem txnMatches_n {p : Params} {c : Call} {t : Txn} (h : txnMatches p c t = true) : t.n.toNat = c.dueLen := by
  simp only [txnMatches, Bool.and_eq_true, beq_iff_eq] at h
  obtain ⟨⟨⟨-, hn⟩, -⟩, -⟩ := h
  exact hn

theorem chunkOk_none {s : State} (h : s.call = none) : chunkOk s = true ↔ s.phase = .IDLE ∧ s.txn = none := by
  simp [chunkOk, h]

theorem chunkOk_some {s : State} {c : Call} (h : s.call = some c) :
    chunkOk s = true ↔ callOk s.cfg s.phase s.eng.total c = true ∧ s.phase ≠ .IDLE ∧ s.phase.inChunk = s.txn.isSome ∧
      ∀ t ∈ s.txn, RecordOk s c t := by
  cases ht : s.txn with
  | none => simp [chunkOk, h, ht, and_assoc]
  | some t =>
    simp only [Option.mem_some_iff, forall_eq', recordOk_iff]
    simp only [chunkOk, h, ht, Bool.and_eq_true, bne_iff_ne, beq_iff_eq, Bool.or_eq_true, Bool.not_eq_true', and_assoc,
      or_assoc, ← Bool.not_eq_true, imp_iff_not_or, ne_eq]

/-- In a chunk there are a call and a record. -/
theorem chunkOk_running {s : State} (hc : chunkOk s = true) (hph : s.phase.inChunk = true) :
    ∃ c t, s.call = some c ∧ s.txn = some t ∧ callOk s.cfg s.phase s.eng.total c = true ∧ RecordOk s c t := by
  cases hcall : s.call with
  | none =>
    rw [((chunkOk_none hcall).mp hc).1] at hph
    cases hph
  | some c =>
    obtain ⟨hok, -, htxn, hrecord⟩ := (chunkOk_some hcall).mp hc
    obtain ⟨t, ht⟩ := Option.isSome_iff_exists.mp (htxn ▸ hph)
    exact ⟨c, t, rfl, ht, hok, hrecord t ht⟩

/-- Outside the chunks there is no record. -/
theorem chunkOk_txn_none {s : State} (hc : chunkOk s = true) (hph : s.phase.inChunk = false) : s.txn = none := by
  cases hcall : s.call with
  | none => exact ((chunkOk_none hcall).mp hc).2
  | some c =>
    obtain ⟨-, -, htxn, -⟩ := (chunkOk_some hcall).mp hc
    simpa using htxn.symm.trans hph

/-- A chunk that is due, with no record yet. -/
theorem chunkOk_due {s : State} {c : Call} (hcall : s.call = some c) (hphase : s.phase = .CONFIG) (htxn : s.txn = none)
    (hok : callOk s.cfg .CONFIG s.eng.total c = true) : chunkOk s = true := by
  refine (chunkOk_some hcall).mpr ⟨hphase ▸ hok, ?_, ?_, ?_⟩ <;> simp [hphase, htxn, Phase.inChunk]

/-- Two states are in the same chunk: they agree on what the clause on the record reads, but for the phase and the
result. -/
structure SameChunk (s s' : State) : Prop where
  cfg : s'.cfg = s.cfg
  call : s'.call = s.call
  txn : s'.txn = s.txn
  total : s'.eng.total = s.eng.total
  nbytes : s'.i2c.nbytes = s.i2c.nbytes

/-- A step within a chunk. -/
theorem chunkOk_advance {s s' : State} (hc : chunkOk s = true) (hsame : SameChunk s s') (hph : s.phase.inChunk = true)
    (hph' : s'.phase.inChunk = true)
    (hres : ∀ c t, s.txn = some t → RecordOk s c t →
      (s'.phase.evaluated = true → s'.eng.res = 0 ∨ s'.eng.res = t.n) ∧ (s'.phase.resetting = true → s'.eng.res = 0)) :
    chunkOk s' = true := by
  obtain ⟨c, t, hcall, htxn, hok, hrecord⟩ := chunkOk_running hc hph
  obtain ⟨hresult, hfailed⟩ := hres c t htxn hrecord
  refine (chunkOk_some (hsame.call.trans hcall)).mpr ⟨?_, ?_, ?_, ?_⟩
  · rw [hsame.cfg, hsame.total]
    exact callOk_of_inside (callOk_inside hph hok) hok
  · intro hidle
    rw [hidle] at hph'
    cases hph'
  · rw [hsame.txn, htxn, hph']
    rfl
  · intro t' ht'
    obtain rfl := Option.some.inj (htxn.symm.trans (hsame.txn.symm.trans ht'))
    exact ⟨hsame.cfg ▸ hrecord.isDue, hsame.nbytes.trans hrecord.nbytes, hresult, hfailed⟩

/-- A step that leaves the phase and the result alone. -/
theorem chunkOk_congr {s s' : State} (hsame : SameChunk s s') (hphase : s'.phase = s.phase)
    (hres : s'.eng.res = s.eng.res) : chunkOk s' = chunkOk s := by
  simp only [chunkOk, hsame.cfg, hsame.call, hsame.txn, hsame.total, hsame.nbytes, hphase, hres]

/-- EVAL clears NACKF and STOPF only (R216). -/
theorem evalStep_i2c (s : State) (t : Txn) :
    (evalStep s t).i2c = { s.i2c with nackf := (evalStep s t).i2c.nackf, stopf := (evalStep s t).i2c.stopf } := by
  unfold evalStep
  dsimp only
  split <;> rfl

/-- STOPREQ sets STOP only (R217). -/
theorem stopreqStep_i2c (s : State) (t : Txn) :
    (stopreqStep s t).i2c = { s.i2c with stop := (stopreqStep s t).i2c.stop } := by
  unfold stopreqStep
  rw [State.setPhase_i2c]
  dsimp only
  split <;> rfl

/-- A result is all or nothing (R215, R229). -/
theorem evalRes_zero_or_n (s : State) (t : Txn) : evalRes s t = 0 ∨ evalRes s t = t.n := by
  unfold evalRes
  repeat' split
  all_goals simp

/-- CONFIG writes the record of the chunk due (R201, R274). -/
theorem configStep_chunkOk {s : State} {c : Call} (hcall : s.call = some c) (hdue : 1 ≤ c.dueLen)
    (hok : callOk s.cfg s.phase s.eng.total c = true) :
    chunkOk (configStep c.addr c.cur.dir (ptr s.cfg (c.cur.buf + c.off)) c.dueLen c.dueCont s) = true := by
  refine (chunkOk_some (c := c) (s := configStep _ _ _ _ _ s) hcall).mpr
    ⟨callOk_of_inside (Call.dueLen_pos.mp hdue) hok, nofun, rfl, ?_⟩
  intro t ht
  obtain rfl := Option.some.inj ht
  refine ⟨?_, rfl, nofun, nofun⟩
  simp only [txnMatches, Call.dueLen_toNat, State.callerLen, hcall, configStep, ptr, Nat.mod_mod, beq_self_eq_true,
    Bool.and_self]

/-- REARM with bytes left: the chunk was complete, so it had 255 bytes, and the next one is due (R261, R263). -/
theorem callOk_nextChunk {s : State} {c : Call} {t : Txn} (hph : s.phase = .REARM)
    (hok : callOk s.cfg s.phase s.eng.total c = true) (hrecord : RecordOk s c t) (hres : c.dueLen ≤ s.eng.res.toNat)
    (hmore : c.off + c.dueLen < c.cur.len) :
    callOk s.cfg .CONFIG (s.eng.total + s.eng.res.toNat) { c with off := c.off + c.dueLen } = true := by
  have hlen := Call.dueLen_of_more hmore
  have hn := txnMatches_n hrecord.isDue
  have hfull : s.eng.res.toNat = c.dueLen := by
    obtain h0 | h := hrecord.result (by rw [hph]; rfl)
    · have hzero : s.eng.res.toNat = 0 := by rw [h0]; rfl
      omega
    · rw [h, hn]
  obtain ⟨hmem, -, haligned, htotal, hnext⟩ := callOk_iff.mp hok
  refine callOk_iff.mpr ⟨hmem, .inl hmore, ?_, by rw [htotal, hfull], hnext⟩
  show (c.off + c.dueLen) % 255 = 0
  omega

/-- Every step of the engine keeps the clause on the record and the result. -/
theorem EngineStep.keeps_chunkOk {s s' : State} {m : Move} (h : EngineStep s m s') (hc : chunkOk s = true) :
    chunkOk s' = true := by
  cases h with
  | reply | isrI2cEv | isrDmaTx | isrDmaRx => exact hc
  | lineCall mem c hp _ _ hfits =>
    exact chunkOk_due rfl rfl (chunkOk_txn_none (s := s) hc (by rw [hp]; rfl))
      (callOk_begin hfits.inMemory (.inl hfits.nonempty) hfits.nextInMemory)
  | clientCall r c _ hp _ hfits =>
    exact chunkOk_due rfl rfl (chunkOk_txn_none (s := s) hc (by rw [hp]; rfl))
      (callOk_begin hfits.inMemory (.inl hfits.nonempty) hfits.nextInMemory)
  | config c hp hcall hdue => exact configStep_chunkOk hcall hdue ((chunkOk_some hcall).mp hc).1
  | arm t hp =>
    refine chunkOk_advance hc ⟨?_, ?_, ?_, ?_, ?_⟩ (by rw [hp]; rfl) rfl fun _ _ _ _ => ⟨nofun, nofun⟩
    all_goals simp [armStep]
  | drain hp => exact chunkOk_advance hc ⟨rfl, rfl, rfl, rfl, rfl⟩ (by rw [hp]; rfl) rfl fun _ _ _ _ => ⟨nofun, nofun⟩
  | endma t hp =>
    refine chunkOk_advance hc ⟨?_, ?_, ?_, ?_, ?_⟩ (by rw [hp]; rfl) rfl fun _ _ _ _ => ⟨nofun, nofun⟩
    all_goals simp [endmaStep]
  | start hp | waitTake hp | waitTimeout hp =>
    exact chunkOk_advance hc ⟨rfl, rfl, rfl, rfl, rfl⟩ (by rw [hp]; rfl) rfl fun _ _ _ _ => ⟨nofun, nofun⟩
  | eval t hp ht =>
    refine chunkOk_advance hc ⟨rfl, rfl, rfl, rfl, by rw [evalStep_i2c]⟩ (by rw [hp]; rfl) rfl fun _ t' ht' _ => ?_
    obtain rfl := Option.some.inj (ht.symm.trans ht')
    exact ⟨fun _ => evalRes_zero_or_n s t, nofun⟩
  | stopreq t hp =>
    exact chunkOk_advance hc ⟨rfl, rfl, rfl, rfl, by rw [stopreqStep_i2c]⟩ (by rw [hp]; rfl) rfl
      fun _ _ _ hrecord => ⟨fun _ => hrecord.result (by rw [hp]; rfl), nofun⟩
  | dmaoff t hp =>
    refine chunkOk_advance hc ⟨?_, ?_, ?_, ?_, ?_⟩ (by rw [hp]; rfl) ?_ fun _ _ _ hrecord => ⟨fun _ => ?_, ?_⟩
    iterate 5 simp [dmaoffStep]
    · simp only [dmaoffStep, State.setPhase_phase]
      split <;> rfl
    · simpa [dmaoffStep] using hrecord.result (by rw [hp]; rfl)
    · simp only [dmaoffStep, State.setPhase_phase, State.setPhase_eng, State.setChan_eng]
      split
      · rename_i h0
        exact fun _ => h0
      · nofun
  | rstDis hp | rstWait hp | rstEn hp =>
    exact chunkOk_advance hc ⟨rfl, rfl, rfl, rfl, rfl⟩ (by rw [hp]; rfl) rfl fun _ _ _ hrecord =>
      ⟨fun _ => hrecord.result (by rw [hp]; rfl), fun _ => hrecord.failed (by rw [hp]; rfl)⟩
  | rearmAlone _ _ hp hnone => exact (chunkOk_none (s := s.settled _ _ _) hnone).mpr ⟨rfl, rfl⟩
  | rearmChunk c _ _ hp hcall hres hmore =>
    obtain ⟨c', t, hcall', -, hok, hrecord⟩ := chunkOk_running hc (by rw [hp]; rfl)
    obtain rfl := Option.some.inj (hcall.symm.trans hcall')
    exact chunkOk_due rfl rfl rfl (callOk_nextChunk hp hok hrecord hres hmore)
  | rearmXfer c x _ _ hp hcall hx =>
    obtain ⟨hok, -⟩ := (chunkOk_some hcall).mp hc
    obtain ⟨-, -, -, -, hnext⟩ := callOk_iff.mp hok
    exact chunkOk_due rfl rfl rfl (callOk_begin (hnext x hx) (.inr rfl) nofun)
  | rearmSilent | rearmReply => exact (chunkOk_none rfl).mpr ⟨rfl, rfl⟩

/-! ## What the bus's steps leave -/

/-- What a step of the bus leaves of the peripheral's control fields and of the channels (R473): START is cleared only,
the peripheral stops running where it is disabled only (R222), and a channel changes where it is enabled only (R211,
R212). -/
structure BusKeeps (s s' : State) : Prop where
  nbytes : s'.i2c.nbytes = s.i2c.nbytes
  pe : s'.i2c.pe = s.i2c.pe
  start : s'.i2c.start = true → s.i2c.start = true
  peActive : s'.i2c.peActive = s.i2c.peActive ∨ (s.i2c.pe = false ∧ s.i2c.peActive = true)
  chan : ∀ d, s'.chan d = s.chan d ∨ (s.chan d).en = true

theorem BusStep.keeps {s s' : State} {m : Move} (h : BusStep s m s') : BusKeeps s s' := by
  cases h with
  | pStart => exact ⟨rfl, rfl, nofun, .inl rfl, fun _ => .inl rfl⟩
  | pDisable hen => exact ⟨rfl, rfl, nofun, .inr (by simpa [State.hwEnabled] using hen), fun _ => .inl rfl⟩
  | dmaTx hen =>
    simp only [State.hwEnabled, Bool.and_eq_true] at hen
    obtain ⟨⟨⟨hon, -⟩, -⟩, -⟩ := hen
    unfold dmaTxStep
    split <;> exact ⟨rfl, rfl, id, .inl rfl, fun | .W => .inr hon | .R => .inl rfl⟩
  | dmaRx hen =>
    simp only [State.hwEnabled, Bool.and_eq_true] at hen
    obtain ⟨⟨hon, -⟩, -⟩ := hen
    unfold dmaRxStep
    split <;> exact ⟨rfl, rfl, id, .inl rfl, fun | .W => .inl rfl | .R => .inr hon⟩
  | pAddr a d n => unfold pAddrStep; split <;> exact ⟨rfl, rfl, id, .inl rfl, fun _ => .inl rfl⟩
  | pWbyte =>
    unfold pWbyteStep
    split
    · dsimp only; split <;> exact ⟨rfl, rfl, id, .inl rfl, fun _ => .inl rfl⟩
    · exact ⟨rfl, rfl, id, .inl rfl, fun _ => .inl rfl⟩
  | pRbyte => unfold pRbyteStep; split <;> exact ⟨rfl, rfl, id, .inl rfl, fun _ => .inl rfl⟩
  | pStop => unfold pStopStep; split <;> exact ⟨rfl, rfl, id, .inl rfl, fun _ => .inl rfl⟩
  | isrI2cEr | pNoise | pStall => exact ⟨rfl, rfl, id, .inl rfl, fun _ => .inl rfl⟩

/-- The bus's steps keep the clause on the record and the result. -/
theorem BusStep.keeps_chunkOk {s s' : State} {m : Move} (h : BusStep s m s') (hc : chunkOk s = true) :
    chunkOk s' = true := by
  rw [chunkOk_congr ⟨?_, ?_, ?_, ?_, h.keeps.nbytes⟩ ?_ ?_]
  · exact hc
  all_goals rw [h.frame]

/-! ## The channels -/

/-- The other direction. -/
def otherDir : Dir → Dir
  | .W => .R
  | .R => .W

theorem eq_or_eq_otherDir (d e : Dir) : d = e ∨ d = otherDir e := by
  cases d <;> cases e <;> decide

@[simp] theorem State.chan_setPhase (s : State) (p : Phase) (d : Dir) : (s.setPhase p).chan d = s.chan d := by
  cases d <;> rfl

@[simp] theorem State.chan_setChan_same (s : State) (d : Dir) (c : Dma) : (s.setChan d c).chan d = c := by
  cases d <;> rfl

@[simp] theorem State.chan_setChan_other (s : State) (d : Dir) (c : Dma) :
    (s.setChan d c).chan (otherDir d) = s.chan (otherDir d) := by
  cases d <;> rfl

/-- A channel at rest is not enabled. -/
theorem Dma.en_of_atRest {c : Dma} (h : c.atRest = true) : c.en = false := by
  simp only [Dma.atRest, Bool.and_eq_true, Bool.not_eq_true'] at h
  exact h.1.1

theorem channelsOk_none {s : State} (h : s.txn = none) :
    channelsOk s = true ↔ s.tx.atRest = true ∧ s.rx.atRest = true := by
  simp [channelsOk, h]

/-- The chunk's own channel may be on in the phases from ENDMA to DMAOFF, the other one is at rest (R514). -/
theorem channelsOk_some {s : State} {t : Txn} (h : s.txn = some t) :
    channelsOk s = true ↔
      (s.chan (otherDir t.dir)).atRest = true ∧ (s.phase.dmaOn = true ∨ (s.chan t.dir).atRest = true) := by
  cases hd : t.dir <;> simp [channelsOk, h, hd, otherDir]

/-- Outside those phases both channels are at rest. -/
theorem channelsOk_off {s : State} (hc : channelsOk s = true) (hoff : s.phase.dmaOn = false) (d : Dir) :
    (s.chan d).atRest = true := by
  cases ht : s.txn with
  | none =>
    obtain ⟨htx, hrx⟩ := (channelsOk_none ht).mp hc
    cases d <;> assumption
  | some t =>
    obtain ⟨hother, hown⟩ := (channelsOk_some ht).mp hc
    obtain rfl | rfl := eq_or_eq_otherDir d t.dir
    · exact hown.resolve_left (by simp [hoff])
    · exact hother

/-- Two channels at rest meet the clause, whatever the record and the phase. -/
theorem channelsOk_of_atRest {s : State} (h : ∀ d, (s.chan d).atRest = true) : channelsOk s = true := by
  cases ht : s.txn with
  | none => exact (channelsOk_none ht).mpr ⟨h .W, h .R⟩
  | some t => exact (channelsOk_some ht).mpr ⟨h _, .inr (h _)⟩

/-- Every step of the engine keeps the clause on the channels. -/
theorem EngineStep.keeps_channelsOk {s s' : State} {m : Move} (h : EngineStep s m s') (hc : channelsOk s = true) :
    channelsOk s' = true := by
  cases h with
  | reply | isrI2cEv | isrDmaTx | isrDmaRx => exact hc
  | arm t hp ht =>
    have hrest := channelsOk_off hc (by rw [hp]; rfl)
    refine (channelsOk_some (t := t) (by simpa [armStep] using ht)).mpr ⟨?_, .inr ?_⟩
    · simpa [armStep] using hrest (otherDir t.dir)
    · simpa [armStep, Dma.atRest] using hrest t.dir
  | endma t hp ht =>
    obtain ⟨hother, -⟩ := (channelsOk_some ht).mp hc
    exact (channelsOk_some (t := t) (by simpa [endmaStep] using ht)).mpr ⟨by simpa [endmaStep] using hother, .inl rfl⟩
  | start hp | waitTake hp | waitTimeout hp | eval t hp | stopreq t hp =>
    have hdma : s.phase.dmaOn = true := by rw [hp]; rfl
    simp only [channelsOk, hdma, Bool.true_or] at hc
    exact hc
  | dmaoff t hp ht =>
    obtain ⟨hother, -⟩ := (channelsOk_some ht).mp hc
    refine (channelsOk_some (t := t) (by simpa [dmaoffStep] using ht)).mpr ⟨by simpa [dmaoffStep] using hother, .inr ?_⟩
    simp [dmaoffStep, Dma.atRest]
  | lineCall _ _ hp | clientCall _ _ _ hp | config _ hp | drain hp | rstDis hp | rstWait hp | rstEn hp | rearmAlone _ _ hp
  | rearmChunk _ _ _ hp | rearmXfer _ _ _ _ hp | rearmSilent _ _ _ _ hp | rearmReply _ _ _ _ _ hp =>
    exact channelsOk_of_atRest (channelsOk_off (s := s) hc (by rw [hp]; rfl))

/-- The bus's steps keep it: a channel at rest stays so, and the chunk's own may be on. -/
theorem BusStep.keeps_channelsOk {s s' : State} {m : Move} (h : BusStep s m s') (hc : channelsOk s = true) :
    channelsOk s' = true := by
  have hrest : ∀ d, (s.chan d).atRest = true → (s'.chan d).atRest = true := by
    intro d hd
    obtain heq | hen := h.keeps.chan d
    · rw [heq]; exact hd
    · exact absurd (hen.symm.trans (Dma.en_of_atRest hd)) (by decide)
  have htxn : s'.txn = s.txn := by rw [h.frame]
  have hphase : s'.phase = s.phase := by rw [h.frame]
  cases ht : s.txn with
  | none =>
    obtain ⟨htx, hrx⟩ := (channelsOk_none ht).mp hc
    exact (channelsOk_none (htxn.trans ht)).mpr ⟨hrest .W htx, hrest .R hrx⟩
  | some t =>
    obtain ⟨hother, hown⟩ := (channelsOk_some ht).mp hc
    exact (channelsOk_some (htxn.trans ht)).mpr ⟨hrest _ hother, hphase ▸ hown.imp_right (hrest _)⟩

/-! ## The peripheral's enable -/

/-- The phases in which the soft reset has the peripheral disabled (R221). -/
def Phase.disabled : Phase → Bool
  | .RST_WAIT => true
  | .RST_EN => true
  | _ => false

theorem enableOk_of_enabled {s : State} (h : s.phase.disabled = false) :
    enableOk s = true ↔ s.i2c.pe = true ∧ s.i2c.peActive = true := by
  cases hp : s.phase <;> simp_all [enableOk, Phase.disabled]

/-- A step between phases in which the peripheral is enabled. -/
theorem enableOk_congr {s s' : State} (he : enableOk s = true) (hpe : s'.i2c.pe = s.i2c.pe)
    (hact : s'.i2c.peActive = s.i2c.peActive) (hph : s.phase.disabled = false) (hph' : s'.phase.disabled = false) :
    enableOk s' = true :=
  (enableOk_of_enabled hph').mpr (by rw [hpe, hact]; exact (enableOk_of_enabled hph).mp he)

/-- Every step of the engine keeps the clause on the peripheral's enable. -/
theorem EngineStep.keeps_enableOk {s s' : State} {m : Move} (h : EngineStep s m s') (he : enableOk s = true) :
    enableOk s' = true := by
  cases h with
  | reply | isrI2cEv | isrDmaTx | isrDmaRx => exact he
  | arm t hp => exact enableOk_congr he (by simp [armStep]) (by simp [armStep]) (by rw [hp]; rfl) rfl
  | endma t hp => exact enableOk_congr he (by simp [endmaStep]) (by simp [endmaStep]) (by rw [hp]; rfl) rfl
  | eval t hp => exact enableOk_congr he (by rw [evalStep_i2c]) (by rw [evalStep_i2c]) (by rw [hp]; rfl) rfl
  | stopreq t hp => exact enableOk_congr he (by rw [stopreqStep_i2c]) (by rw [stopreqStep_i2c]) (by rw [hp]; rfl) rfl
  | dmaoff t hp =>
    refine enableOk_congr he (by simp [dmaoffStep]) (by simp [dmaoffStep]) (by rw [hp]; rfl) ?_
    simp only [dmaoffStep, State.setPhase_phase]
    split <;> rfl
  | rstDis | rstEn => rfl
  | rstWait hp hact =>
    simp only [enableOk, hp] at he
    simp only [enableOk, rstWaitStep, State.setPhase_phase, State.setPhase_i2c, he, hact, Bool.not_false,
      Bool.and_self]
  | lineCall _ _ hp | clientCall _ _ _ hp | config _ hp | drain hp | start hp | waitTake hp | waitTimeout hp
  | rearmAlone _ _ hp | rearmChunk _ _ _ hp | rearmXfer _ _ _ _ hp | rearmSilent _ _ _ _ hp
  | rearmReply _ _ _ _ _ hp => exact enableOk_congr he rfl rfl (by rw [hp]; rfl) rfl

/-- The bus's steps keep it: the disable takes effect in RST_WAIT only (R222, R513). -/
theorem BusStep.keeps_enableOk {s s' : State} {m : Move} (h : BusStep s m s') (he : enableOk s = true) :
    enableOk s' = true := by
  have hpe := h.keeps.pe
  have hphase : s'.phase = s.phase := by rw [h.frame]
  obtain hact | ⟨hoff, hon⟩ := h.keeps.peActive
  · simpa only [enableOk, hphase, hpe, hact] using he
  · cases hp : s.phase <;> simp_all [enableOk]

/-! ## The bus, and the start request -/

/-- The engine's steps leave the bus alone (R473). -/
theorem EngineStep.bus_eq {s s' : State} {m : Move} (h : EngineStep s m s') : s'.i2c.bus = s.i2c.bus := by
  cases h with
  | arm t => simp [armStep]
  | endma t => simp [endmaStep]
  | eval t => rw [evalStep_i2c]
  | stopreq t => rw [stopreqStep_i2c]
  | dmaoff t => simp [dmaoffStep]
  | _ => rfl

/-- A data phase counts within its transaction after each byte (R209, R210). -/
theorem busOk_nextData {a : Addr7} {d : Dir} {i n : Nat} (h : i < n) : busOk (nextData a d i n) = true := by
  unfold nextData
  split
  · rfl
  · simp only [busOk, decide_eq_true_eq]
    omega

/-- The bus's steps keep the count within the transaction (R56). -/
theorem BusStep.keeps_busOk {s s' : State} {m : Move} (h : BusStep s m s')
    (hstart : s.i2c.start = true → s.i2c.nbytes ≠ 0) (hb : busOk s.i2c.bus = true) : busOk s'.i2c.bus = true := by
  cases h with
  | pStart hen =>
    simp only [State.hwEnabled, Bool.and_eq_true] at hen
    obtain ⟨⟨⟨hst, -⟩, -⟩, -⟩ := hen
    have hpos : s.i2c.nbytes.toNat ≠ 0 := fun h0 => hstart hst (BitVec.eq_of_toNat_eq h0)
    simp only [pStartStep, busOk, decide_eq_true_eq]
    omega
  | pAddr a d n hbus =>
    unfold pAddrStep
    split
    · rw [hbus] at hb
      exact hb
    · rfl
  | pWbyte =>
    unfold pWbyteStep
    split
    · rename_i a i n hbus
      dsimp only
      split
      · rfl
      · exact busOk_nextData (by simpa [busOk, hbus] using hb)
    · exact hb
  | pRbyte =>
    unfold pRbyteStep
    split
    · rename_i a i n hbus
      exact busOk_nextData (by simpa [busOk, hbus] using hb)
    · exact hb
  | pStop =>
    unfold pStopStep
    split
    · exact hb
    · rfl
  | pDisable => rfl
  | dmaTx => unfold dmaTxStep; split <;> exact hb
  | dmaRx => unfold dmaRxStep; split <;> exact hb
  | isrI2cEr | pNoise | pStall => exact hb

/-- A start is requested for a chunk of a byte or more (R201, R205). -/
theorem EngineStep.keeps_startOk {s s' : State} {m : Move} (h : EngineStep s m s') (hc : chunkOk s = true)
    (hs : s.i2c.start = true → s.i2c.nbytes ≠ 0) : s'.i2c.start = true → s'.i2c.nbytes ≠ 0 := by
  cases h with
  | config c _ _ hdue =>
    intro _ h0
    have : c.dueLen = 0 := by rw [← c.dueLen_toNat]; exact congrArg BitVec.toNat h0
    omega
  | start hp =>
    intro _ h0
    obtain ⟨c, t, -, -, hok, hrecord⟩ := chunkOk_running hc (by rw [hp]; rfl)
    have hpos := Call.dueLen_pos.mpr (callOk_inside (by rw [hp]; rfl) hok)
    rw [← txnMatches_n hrecord.isDue, ← hrecord.nbytes] at hpos
    have h0 : s.i2c.nbytes = 0 := h0
    simp [h0] at hpos
  | arm t => simpa [armStep] using hs
  | endma t => simpa [endmaStep] using hs
  | eval t => rw [evalStep_i2c]; exact hs
  | stopreq t => rw [stopreqStep_i2c]; exact hs
  | dmaoff t => simpa [dmaoffStep] using hs
  | _ => exact hs

/-! ## The whole invariant -/

/-- Every step keeps the engine's invariant. -/
theorem StepBy.keeps_engineOk {s s' : State} {m : Move} (h : StepBy s m s') (he : EngineOk s) : EngineOk s' := by
  have hcfg := h.cfg_eq
  obtain ⟨hparams, hchunk, hchan, hen, hbus, hstart⟩ := he
  refine ⟨hcfg ▸ hparams, ?_⟩
  cases h with
  | hold => exact ⟨hchunk, hchan, hen, hbus, hstart⟩
  | engine h =>
    exact ⟨h.keeps_chunkOk hchunk, h.keeps_channelsOk hchan, h.keeps_enableOk hen, h.bus_eq ▸ hbus,
      h.keeps_startOk hchunk hstart⟩
  | bus h =>
    exact ⟨h.keeps_chunkOk hchunk, h.keeps_channelsOk hchan, h.keeps_enableOk hen, h.keeps_busOk hstart hbus,
      fun hs => h.keeps.nbytes ▸ hstart (h.keeps.start hs)⟩
  | transport h =>
    rw [h.frame]
    exact ⟨hchunk, hchan, hen, hbus, hstart⟩

/-- The engine's steps make no phase of length 0 where no client's request is placed (R382, log 34). -/
theorem EngineStep.keeps_noEmptyPhase {s s' : State} {m : Move} (h : EngineStep s m s') (hclient : s.client = none)
    (hn : NoEmptyPhase s) : NoEmptyPhase s' := by
  cases h with
  | lineCall _ c _ _ _ hfits hnext =>
    intro c' hc'
    obtain rfl := Option.some.inj hc'
    exact ⟨hfits.nonempty, hnext⟩
  | clientCall r _ hr => exact nomatch hclient.symm.trans hr
  | rearmChunk c _ _ _ hc =>
    intro c' hc'
    obtain rfl := Option.some.inj hc'
    exact hn c hc
  | rearmXfer c x _ _ _ hc hx =>
    intro c' hc'
    obtain rfl := Option.some.inj hc'
    exact ⟨(hn c hc).2 x hx, nofun⟩
  | rearmSilent | rearmReply => exact nofun
  | arm t => exact fun c hc => hn c (by simpa [armStep] using hc)
  | endma t => exact fun c hc => hn c (by simpa [endmaStep] using hc)
  | dmaoff t => exact fun c hc => hn c (by simpa [dmaoffStep] using hc)
  | _ => exact hn

/-- No step makes a phase of length 0 where no client's request is placed. -/
theorem StepBy.keeps_noEmptyPhase {s s' : State} {m : Move} (h : StepBy s m s') (hclient : s.client = none)
    (hn : NoEmptyPhase s) : NoEmptyPhase s' := by
  cases h with
  | hold => exact hn
  | engine h => exact h.keeps_noEmptyPhase hclient hn
  | bus h => rw [h.frame]; exact hn
  | transport h => rw [h.frame]; exact hn

/-- Settles O49, clause by clause over the steps. -/
theorem engineInvariantKept : Obligations.EngineInvariantKept := by
  intro s s' he h
  obtain ⟨sched, now, tick, -, hstep⟩ := step_stepBy_with h
  exact ⟨hstep.keeps_engineOk he, fun hclient => hstep.keeps_noEmptyPhase hclient⟩

end Sys2Proof.Machine

/-!
PROOFS. The memory stays canonical (O47). Of the steps of the list, only the dispatch of a line, REARM and DMA-RX write
memory, each by `Memory.write` and `Memory.writeN`, which keep the canonical form.
-/

namespace Sys2Proof.Machine

/-! ## Which steps write memory (R473) -/

/-- The engine's steps write memory at the Shell's dispatch of a line and at REARM only. -/
theorem EngineStep.mem_eq_or {s s' : State} {m : Move} (h : EngineStep s m s') :
    s'.mem = s.mem ∨ (m = .shell ∧ s.phase = .REARM) ∨ (m = .shell ∧ s.phase = .IDLE ∧ s.sh.pos = .DISPATCH) := by
  cases h with
  | reply _ _ _ hphase hpos => exact .inr (.inr ⟨rfl, hphase, hpos⟩)
  | lineCall _ _ hphase hpos => exact .inr (.inr ⟨rfl, hphase, hpos⟩)
  | rearmAlone _ _ hphase => exact .inr (.inl ⟨rfl, hphase⟩)
  | rearmChunk _ _ _ hphase => exact .inr (.inl ⟨rfl, hphase⟩)
  | rearmXfer _ _ _ _ hphase => exact .inr (.inl ⟨rfl, hphase⟩)
  | rearmSilent _ _ _ _ hphase => exact .inr (.inl ⟨rfl, hphase⟩)
  | rearmReply _ _ _ _ _ hphase => exact .inr (.inl ⟨rfl, hphase⟩)
  | arm t => exact .inl (by simp [armStep])
  | endma t => exact .inl (by simp [endmaStep])
  | dmaoff t => exact .inl (by simp [dmaoffStep])
  | _ => exact .inl rfl

/-- The bus's steps write memory by the byte of DMA-RX only (R212). -/
theorem BusStep.keeps_memWf {s s' : State} {m : Move} (h : BusStep s m s') (hs : s.mem.wf = true) :
    s'.mem.wf = true := by
  cases h with
  | dmaRx =>
    unfold dmaRxStep
    split
    · exact hs
    · exact Memory.wf_write _ _ _ hs
  | dmaTx => unfold dmaTxStep; split <;> exact hs
  | pAddr a d n => unfold pAddrStep; split <;> exact hs
  | pWbyte =>
    unfold pWbyteStep
    split
    · dsimp only; split <;> exact hs
    · exact hs
  | pRbyte => unfold pRbyteStep; split <;> exact hs
  | pStop => unfold pStopStep; split <;> exact hs
  | _ => exact hs

/-! ## REARM: free bytes in a failed read's buffer (R131, R265, I8) -/

/-- A reply writes no memory. -/
@[simp] theorem State.replyFor_mem (s : State) (r : Reply) (ok : Bool) : (s.replyFor r ok).mem = s.mem := by
  cases r <;> rfl

theorem State.wf_spoilChunk {s : State} (hs : s.mem.wf = true) : s.spoilChunk.mem.wf = true := by
  unfold State.spoilChunk
  split
  · split
    · exact State.wf_havoc _ _ _ hs
    · exact hs
  · exact hs

theorem State.wf_spoilReadBuf {s : State} (b : Option (Nat × Nat)) (ok : Bool) (hs : s.mem.wf = true) :
    (s.spoilReadBuf b ok).mem.wf = true := by
  unfold State.spoilReadBuf
  split
  · split
    · exact hs
    · exact State.wf_havoc _ _ _ hs
  · exact hs

theorem State.wf_returnCall {s : State} (c : Call) (ok : Bool) (hs : s.mem.wf = true) :
    (s.returnCall c ok).mem.wf = true := by
  rw [State.returnCall, State.replyFor_mem]
  exact State.wf_spoilReadBuf _ _ hs

theorem State.wf_chunkDone {s : State} (hs : s.mem.wf = true) : s.chunkDone.mem.wf = true := by
  cases hc : s.call with
  | none => rwa [State.chunkDone_none hc]
  | some c =>
    rw [State.chunkDone_some hc]
    obtain ⟨-, -, h⟩ | ⟨x, -, -, h⟩ | ⟨ok, -, h⟩ := s.returnChunk_cases c c.dueLen <;> rw [h]
    · exact hs
    · exact hs
    · exact State.wf_returnCall c ok hs

theorem wf_rearmStep {s : State} (hs : s.mem.wf = true) : (rearmStep s).mem.wf = true := by
  have hspoil : (s.rearmSources.setPhase .IDLE).spoilChunk.mem.wf = true := State.wf_spoilChunk hs
  exact State.wf_chunkDone (s := (s.rearmSources.setPhase .IDLE).spoilChunk.discardTxn) hspoil

/-! ## The dispatch of a line: its data into the Shell's buffers (R120, R385-R387) -/

section
variable {s s' : State} (hs : s.mem.wf = true)
include hs

theorem State.wf_fillBuf (buf : Nat) (data : List Byte) : (s.fillBuf buf data).mem.wf = true := Memory.wf_writeN _ _ _ hs

theorem rejectLine_keeps_memWf (h : (.next s.rejectLine : Result) = .next s') : s'.mem.wf = true := by
  obtain rfl := Host.Outcome.next.inj h
  exact hs

theorem makeCall_keeps_memWf {why : Option Refusal} {c : Call} (h : s.makeCall why c = .next s') :
    s'.mem.wf = true := by
  obtain ⟨-, rfl⟩ := State.makeCall_next h
  exact hs

theorem execPing_keeps_memWf {extra : Bool} (h : execPing extra s = .next s') : s'.mem.wf = true := by
  unfold execPing at h
  split at h <;> obtain rfl := Host.Outcome.next.inj h <;> exact hs

theorem execRead_keeps_memWf {aa : Option Addr7} {nn : Option Nat} {extra : Bool} (h : execRead aa nn extra s = .next s') :
    s'.mem.wf = true := by
  unfold execRead at h
  split at h
  · split at h
    · exact rejectLine_keeps_memWf hs h
    · exact makeCall_keeps_memWf hs h
  · exact rejectLine_keeps_memWf hs h

theorem execWrite_keeps_memWf {aa : Option Addr7} {nn : Option Nat} {data : Option (List Byte)} {extra : Bool}
    (h : execWrite aa nn data extra s = .next s') : s'.mem.wf = true := by
  unfold execWrite at h
  split at h
  · split at h
    · rename_i d _
      have h1 := State.wf_fillBuf hs s.cfg.wbuf1 d
      dsimp only at h
      split at h
      · exact rejectLine_keeps_memWf h1 h
      · exact makeCall_keeps_memWf h1 h
    · exact rejectLine_keeps_memWf hs h
  · exact rejectLine_keeps_memWf hs h

theorem execWriteRead_keeps_memWf {aa : Option Addr7} {n1 : Option Nat} {data1 : Option (List Byte)} {n2 : Option Nat}
    {extra : Bool} (h : execWriteRead aa n1 data1 n2 extra s = .next s') : s'.mem.wf = true := by
  unfold execWriteRead at h
  split at h
  · split at h
    · rename_i d1 _
      have h1 := State.wf_fillBuf hs s.cfg.wbuf1 d1
      dsimp only at h
      split at h
      · split at h
        · exact rejectLine_keeps_memWf h1 h
        · exact makeCall_keeps_memWf h1 h
      · exact rejectLine_keeps_memWf h1 h
    · exact rejectLine_keeps_memWf hs h
  · exact rejectLine_keeps_memWf hs h

theorem execWriteWrite_keeps_memWf {aa : Option Addr7} {n1 : Option Nat} {data1 : Option (List Byte)} {n2 : Option Nat}
    {data2 : Option (List Byte)} {extra : Bool} (h : execWriteWrite aa n1 data1 n2 data2 extra s = .next s') :
    s'.mem.wf = true := by
  unfold execWriteWrite at h
  split at h
  · split at h
    · rename_i d1 _
      have h1 := State.wf_fillBuf hs s.cfg.wbuf1 d1
      dsimp only at h
      split at h
      · split at h
        · rename_i d2 _
          have h2 := State.wf_fillBuf h1 s.cfg.wbuf2 d2
          split at h
          · exact rejectLine_keeps_memWf h2 h
          · exact makeCall_keeps_memWf h2 h
        · exact rejectLine_keeps_memWf h1 h
      · exact rejectLine_keeps_memWf h1 h
    · exact rejectLine_keeps_memWf hs h
  · exact rejectLine_keeps_memWf hs h

/-- A command line keeps the canonical form, whether it is replied to or begins its call. -/
theorem exec_line_keeps_memWf {i : Instr} (hi : i.form = .line) (h : exec i s = .next s') : s'.mem.wf = true := by
  cases i with
  | ping => exact execPing_keeps_memWf hs h
  | read => exact execRead_keeps_memWf hs h
  | write => exact execWrite_keeps_memWf hs h
  | writeRead => exact execWriteRead_keeps_memWf hs h
  | writeWrite => exact execWriteWrite_keeps_memWf hs h
  | unrecognized => exact rejectLine_keeps_memWf hs h
  | _ => cases hi

end

/-! ## Every step -/

/-- The Shell's step in REARM is `rearmStep` (R220). -/
theorem step_rearm {s s' : State} (h : step s = .next s') (hm : s.takeChoice.now.move = .shell)
    (hphase : s.takeChoice.phase = .REARM) : s' = rearmStep s.takeChoice := by
  obtain ⟨-, ⟨i, hi, -⟩ | ⟨-, -, h⟩ | ⟨-, hen, -⟩⟩ := step_cases h
  · simp [State.fetch, hm, State.shellInstr, hphase] at hi
  · simpa [hm, act, hphase, sequencerStep, eq_comm] using h
  · simp [hm, State.enabled, State.shellEnabled, hphase] at hen

/-- The Shell's step at its dispatch runs a command line (R374). -/
theorem step_dispatch {s s' : State} (h : step s = .next s') (hm : s.takeChoice.now.move = .shell)
    (hphase : s.takeChoice.phase = .IDLE) (hpos : s.takeChoice.sh.pos = .DISPATCH) :
    ∃ i : Instr, i.form = .line ∧ exec i s.takeChoice = .next s' := by
  have hfetch : s.takeChoice.fetch = some (decodeLine s.takeChoice.cfg s.takeChoice.sh.line.text) := by
    simp [State.fetch, hm, State.shellInstr, hphase, hpos]
  obtain ⟨-, ⟨i, hi, h⟩ | ⟨hnone, -, -⟩ | ⟨hnone, -, -⟩⟩ := step_cases h
  · obtain rfl := Option.some.inj (hfetch.symm.trans hi)
    rw [State.accept_of_ne (by simp [hm])] at h
    exact ⟨_, decodeLine_form _ _, h⟩
  · exact nomatch hfetch.symm.trans hnone
  · exact nomatch hfetch.symm.trans hnone

/-- Settles O47: of the steps that write memory, each keeps the canonical form. -/
theorem memoryStaysCanonical : Obligations.MemoryStaysCanonical := by
  intro s s' hs h
  replace hs : s.takeChoice.mem.wf = true := by rw [State.takeChoice_eq]; exact hs
  cases step_stepBy h with
  | hold => exact hs
  | engine hstep =>
    obtain hmem | ⟨hm, hphase⟩ | ⟨hm, hphase, hpos⟩ := hstep.mem_eq_or
    · rw [hmem]; exact hs
    · rw [step_rearm h hm hphase]; exact wf_rearmStep hs
    · obtain ⟨i, hi, hexec⟩ := step_dispatch h hm hphase hpos
      exact exec_line_keeps_memWf hs hi hexec
  | bus hstep => exact hstep.keeps_memWf hs
  | transport hstep => rw [hstep.frame]; exact hs

end Sys2Proof.Machine

/-!
PROOFS. The codecs read back what they write (O1, O6, O7): the tokens of a line, the texts of its arguments, the natural
numbers of a request record, the address byte.
-/

namespace Sys2Proof

/-! ## Tokens (R162) -/

/-- The model's splitting is the library's. -/
theorem splitSpaces_eq_splitOn (line : List Byte) : splitSpaces line = line.splitOn 0x20 := by
  induction line with
  | nil => rfl
  | cons c rest ih =>
    obtain ⟨t, ts, h⟩ := List.exists_cons_of_ne_nil (List.splitOn_ne_nil 0x20 rest)
    rw [splitSpaces, List.splitOn_cons_eq_if_modifyHead, ih, h]
    simp

/-- The text between spaces holds none. -/
theorem ne_space_of_mem_splitSpaces {line t : List Byte} (ht : t ∈ splitSpaces line) : ∀ c ∈ t, c ≠ 0x20 := by
  induction line generalizing t with
  | nil => simp_all [splitSpaces]
  | cons b rest ih =>
    obtain ⟨u, us, hrest⟩ := List.exists_cons_of_ne_nil (List.splitOn_ne_nil 0x20 rest)
    rw [← splitSpaces_eq_splitOn] at hrest
    rw [hrest] at ih
    by_cases hb : b = 0x20
    · simp only [splitSpaces, hb, hrest, if_true, List.mem_cons] at ht
      obtain rfl | ht := ht
      · simp
      · exact ih (List.mem_cons.mpr ht)
    · simp only [splitSpaces, hb, hrest, if_false, List.mem_cons] at ht
      obtain rfl | ht := ht
      · exact List.forall_mem_cons.mpr ⟨hb, ih List.mem_cons_self⟩
      · exact ih (List.mem_cons_of_mem u ht)

theorem wfToken_iff {t : List Byte} :
    wfToken t = true ↔ t ≠ [] ∧ ∀ c ∈ t, isPrintable c = true ∧ c ≠ 0x20 := by
  simp [wfToken]

/-- A line spelled from tokens splits into them, under either tokenizer. -/
theorem tokens_lineText (m : Tokenize) {ts : List (List Byte)} (hne : ts ≠ []) (h : ∀ t ∈ ts, wfToken t = true) :
    tokens m (lineText ts) = ts := by
  have hsplit : splitSpaces (lineText ts) = ts := by
    rw [splitSpaces_eq_splitOn]
    exact List.splitOn_intercalate _ (fun t ht hsp => ((wfToken_iff.mp (h t ht)).2 _ hsp).2 rfl) hne
  cases m with
  | single => exact hsplit
  | collapse =>
    rw [tokens, hsplit, List.filter_eq_self]
    intro t ht
    simpa using (wfToken_iff.mp (h t ht)).1

/-- A line spelled from tokens is printable. -/
theorem isPrintable_of_mem_lineText {ts : List (List Byte)} (h : ∀ t ∈ ts, wfToken t = true) :
    ∀ c ∈ lineText ts, isPrintable c = true := by
  induction ts with
  | nil => simp [lineText]
  | cons t ts ih =>
    obtain ⟨ht, hts⟩ := List.forall_mem_cons.mp h
    have hprint : ∀ c ∈ t, isPrintable c = true := fun c hc => ((wfToken_iff.mp ht).2 c hc).1
    cases ts with
    | nil => simpa [lineText] using hprint
    | cons u us =>
      intro c hc
      rw [lineText, List.intercalate_cons_cons, List.mem_append, List.mem_append, List.mem_singleton] at hc
      obtain (hc | rfl) | hc := hc
      · exact hprint c hc
      · decide
      · exact ih hts c hc

/-- A line spelled from tokens decodes to the command they select (R163). -/
theorem decode_lineText (p : Params) {kw : List Byte} {args : List (List Byte)}
    (h : ∀ t ∈ kw :: args, wfToken t = true) :
    decode p .line (lineText (kw :: args)) = .ok (decodeCommand p kw args) := by
  have htok := tokens_lineText p.tokenize (List.cons_ne_nil kw args) h
  have hne : lineText (kw :: args) ≠ [] := by
    intro hnil
    have hsplit := tokens_lineText .collapse (List.cons_ne_nil kw args) h
    rw [hnil] at hsplit
    exact absurd hsplit (by simp [tokens, splitSpaces])
  have hprint : (lineText (kw :: args)).all isPrintable = true := List.all_eq_true.mpr (isPrintable_of_mem_lineText h)
  simp [decode, hne, hprint, decodeLine, htok]

/-! ## Hex digits and data (R166, R376-R378) -/

theorem hexDigit_hexChar : ∀ v < 16, hexDigit (hexChar v) = some v := by decide

theorem hexChar_printable : ∀ v < 16, isPrintable (hexChar v) = true ∧ hexChar v ≠ 0x20 := by decide

theorem hexEncode_cons (b : Byte) (bs : List Byte) :
    hexEncode (b :: bs) = hexChar (b.toNat / 16) :: hexChar (b.toNat % 16) :: hexEncode bs := rfl

theorem nibbles_lt (b : Byte) : b.toNat / 16 < 16 ∧ b.toNat % 16 < 16 := by omega

theorem hexPairs_hexEncode (bs : List Byte) : hexPairs (hexEncode bs) = some bs := by
  induction bs with
  | nil => rfl
  | cons b bs ih =>
    obtain ⟨hhi, hlo⟩ := nibbles_lt b
    simp [hexEncode_cons, hexPairs, hexDigit_hexChar _ hhi, hexDigit_hexChar _ hlo, ih, Nat.div_add_mod]

/-- R381, the first law: at every length. -/
theorem hexDecode_hexEncode (bs : List Byte) : hexDecode (hexEncode bs) bs.length = some bs := by
  simp [hexDecode, hexPairs_hexEncode]

theorem hexEncode_printable (bs : List Byte) : ∀ c ∈ hexEncode bs, isPrintable c = true ∧ c ≠ 0x20 := by
  induction bs with
  | nil => simp [hexEncode]
  | cons b bs ih =>
    obtain ⟨hhi, hlo⟩ := nibbles_lt b
    rw [hexEncode_cons, List.forall_mem_cons, List.forall_mem_cons]
    exact ⟨hexChar_printable _ hhi, hexChar_printable _ hlo, ih⟩

theorem wfToken_hexEncode {bs : List Byte} (h : bs ≠ []) : wfToken (hexEncode bs) = true := by
  refine wfToken_iff.mpr ⟨?_, hexEncode_printable bs⟩
  cases bs with
  | nil => exact absurd rfl h
  | cons b bs => simp [hexEncode_cons]

/-! ## The texts of a command's arguments (R163-R166) -/

theorem wfToken_addrText {aa : Option Addr7} (h : wfAddr aa = true) : wfToken (addrText aa) = true := by
  cases aa with
  | none => exact absurd h (by decide)
  | some a => exact wfToken_hexEncode (List.cons_ne_nil _ _)

/-- The text of an address decodes to it, whatever becomes of bit 7 (R380). -/
theorem addrDecode_addrText (m : AddrHigh) {aa : Option Addr7} (h : wfAddr aa = true) :
    addrDecode m (addrText aa) = aa := by
  cases aa with
  | none => exact absurd h (by decide)
  | some a =>
    have ha : a ≠ 0 := by simpa [wfAddr] using h
    have htext : hexDecode (addrText (some a)) 1 = some [a.setWidth 8] := hexDecode_hexEncode [a.setWidth 8]
    have hlow : ¬ 0x80 ≤ (a.setWidth 8).toNat := by simp only [BitVec.toNat_setWidth]; omega
    have hback : (a.setWidth 8).setWidth 7 = a := by simp
    simp only [addrDecode, htext, hback, hlow, ha, false_and, if_false]

/-- A decimal digit's byte. -/
theorem decDigit_toNat {d : Nat} (h : d < 10) : (BitVec.ofNat 8 (0x30 + d)).toNat = 0x30 + d := by
  rw [BitVec.toNat_ofNat]; omega

theorem isDecDigit_decDigit {d : Nat} (h : d < 10) : isDecDigit (BitVec.ofNat 8 (0x30 + d)) = true := by
  have hmax : 0x30 + d ≤ 0x39 := by omega
  simp [isDecDigit, decDigit_toNat h, hmax]

/-- A decimal digit stands in a token. -/
theorem isDecDigit_printable {c : Byte} (h : isDecDigit c = true) : isPrintable c = true ∧ c ≠ 0x20 := by
  have hc : 0x30 ≤ c.toNat ∧ c.toNat ≤ 0x39 := by simpa [isDecDigit] using h
  obtain ⟨hmin, hmax⟩ := hc
  have hprint : 0x20 ≤ c.toNat ∧ c.toNat ≤ 0x7E := by omega
  refine ⟨by simpa [isPrintable] using hprint, ?_⟩
  rintro rfl
  exact absurd hmin (by decide)

theorem decEncode_isDecDigit {n : Nat} (h : n < 100) : ∀ c ∈ decEncode n, isDecDigit c = true := by
  have htens : n / 10 < 10 := by omega
  have hones : n % 10 < 10 := by omega
  simp [decEncode, isDecDigit_decDigit htens, isDecDigit_decDigit hones]

/-- Two digits decode to their number, under either form of a length (R165, R379). -/
theorem decDecode_decEncode (m : LenToken) {n : Nat} (h : n < 100) : decDecode m (decEncode n) = some n := by
  have hdigits : (decEncode n).all isDecDigit = true := List.all_eq_true.mpr (decEncode_isDecDigit h)
  have hvalue : decValue (decEncode n) = n := by
    have htens := decDigit_toNat (d := n / 10) (by omega)
    have hones := decDigit_toNat (d := n % 10) (by omega)
    simp only [decValue, decEncode, List.foldl_cons, List.foldl_nil, htens, hones]
    omega
  have hlength : (decEncode n).length = 2 := rfl
  have hne : decEncode n ≠ [] := List.cons_ne_nil _ _
  simp [decDecode, hdigits, hvalue, hlength, hne]

/-- A well-formed length is present and in 1..64 (R165). -/
theorem exists_of_wfLen {nn : Option Nat} (h : wfLen nn = true) : ∃ n, nn = some n ∧ 1 ≤ n ∧ n ≤ 64 := by
  cases nn with
  | none => exact absurd h (by decide)
  | some n =>
    obtain ⟨hmin, hmax⟩ := Bool.and_eq_true_iff.mp h
    exact ⟨n, rfl, of_decide_eq_true hmin, of_decide_eq_true hmax⟩

theorem wfToken_lenText {nn : Option Nat} (h : wfLen nn = true) : wfToken (lenText nn) = true := by
  obtain ⟨n, rfl, -, hmax⟩ := exists_of_wfLen h
  refine wfToken_iff.mpr ⟨List.cons_ne_nil _ _, fun c hc => ?_⟩
  exact isDecDigit_printable (decEncode_isDecDigit (by omega) c hc)

theorem decDecode_lenText (m : LenToken) {nn : Option Nat} (h : wfLen nn = true) : decDecode m (lenText nn) = nn := by
  obtain ⟨n, rfl, -, hmax⟩ := exists_of_wfLen h
  exact decDecode_decEncode m (by omega)

/-- Well-formed data are present, with their length (R166). -/
theorem exists_of_wfData {nn : Option Nat} {data : Option (List Byte)} (h : wfData nn data = true) :
    ∃ d, data = some d ∧ nn = some d.length := by
  cases nn with
  | none => simp [wfData] at h
  | some n =>
    cases data with
    | none => simp [wfData] at h
    | some d =>
      have hlength : d.length = n := by simpa [wfData] using h
      exact ⟨d, rfl, by rw [hlength]⟩

theorem wfToken_dataText {nn : Option Nat} {data : Option (List Byte)} (hlen : wfLen nn = true)
    (h : wfData nn data = true) : wfToken (dataText data) = true := by
  obtain ⟨d, rfl, rfl⟩ := exists_of_wfData h
  obtain ⟨n, hn, hmin, -⟩ := exists_of_wfLen hlen
  have hpos : 1 ≤ d.length := by rw [Option.some.inj hn]; exact hmin
  exact wfToken_hexEncode (List.length_pos_iff.mp hpos)

/-! ## The arguments read back (R375) -/

section
variable {p : Params} {args : List (List Byte)} {k : Nat}

theorem addrArg_of_addrText {aa : Option Addr7} (hk : args[k]? = some (addrText aa)) (h : wfAddr aa = true) :
    addrArg p args k = aa := by
  simp [addrArg, hk, addrDecode_addrText _ h]

theorem lenArg_of_lenText {nn : Option Nat} (hk : args[k]? = some (lenText nn)) (h : wfLen nn = true) :
    lenArg p args k = nn := by
  simp [lenArg, hk, decDecode_lenText _ h]

theorem dataArg_of_dataText {nn : Option Nat} {data : Option (List Byte)} (hk : args[k]? = some (dataText data))
    (h : wfData nn data = true) : dataArg args k nn = data := by
  obtain ⟨d, rfl, rfl⟩ := exists_of_wfData h
  simp [dataArg, hk, dataText, hexDecode_hexEncode]

end

/-! ## The command that token 0 selects (R163) -/

section
variable (p : Params) (args : List (List Byte))

@[simp] theorem decodeCommand_ping : decodeCommand p Keyword.ping args = .ping (extraArgs args 0) := rfl

@[simp] theorem decodeCommand_read : decodeCommand p Keyword.read args
    = .read (addrArg p args 0) (lenArg p args 1) (extraArgs args 2) := rfl

@[simp] theorem decodeCommand_write : decodeCommand p Keyword.write args
    = .write (addrArg p args 0) (lenArg p args 1) (dataArg args 2 (lenArg p args 1)) (extraArgs args 3) := rfl

@[simp] theorem decodeCommand_writeRead : decodeCommand p Keyword.writeRead args
    = .writeRead (addrArg p args 0) (lenArg p args 1) (dataArg args 2 (lenArg p args 1)) (lenArg p args 3)
        (extraArgs args 4) := rfl

@[simp] theorem decodeCommand_writeWrite : decodeCommand p Keyword.writeWrite args
    = .writeWrite (addrArg p args 0) (lenArg p args 1) (dataArg args 2 (lenArg p args 1)) (lenArg p args 3)
        (dataArg args 4 (lenArg p args 3)) (extraArgs args 5) := rfl

/-- Any other token 0 is the illegal line (R169, R388). -/
theorem decodeCommand_of_notMem {kw : List Byte} (h : kw ∉ Keyword.all) : decodeCommand p kw args = .unrecognized kw := by
  simp only [Keyword.all, List.mem_cons, List.not_mem_nil, or_false, not_or] at h
  obtain ⟨hping, hread, hwrite, hwriteRead, hwriteWrite⟩ := h
  simp [decodeCommand, hping, hread, hwrite, hwriteRead, hwriteWrite]

end

/-! ## Command lines -/

theorem keywords_wfToken : ∀ kw ∈ Keyword.all, wfToken kw = true := by decide

/-- A keyword and the texts of its arguments decode to the command it selects (R163). -/
theorem decode_keywordLine (p : Params) {kw : List Byte} {args : List (List Byte)} (hkw : kw ∈ Keyword.all)
    (hargs : ∀ t ∈ args, wfToken t = true) : decode p .line (lineText (kw :: args)) = .ok (decodeCommand p kw args) :=
  decode_lineText p (List.forall_mem_cons.mpr ⟨keywords_wfToken kw hkw, hargs⟩)

/-- The line of a well-formed command decodes to it. -/
theorem decode_encode_line (p : Params) {i : Instr} (hform : i.form = .line) (hwf : i.WellFormed p) :
    decode p .line (encode p i) = .ok i := by
  cases i with
  | ping extra =>
    obtain rfl : extra = false := Bool.not_eq_true' _ ▸ hwf
    exact decode_keywordLine p (args := []) (by decide) (by simp)
  | read aa nn extra =>
    simp only [Instr.WellFormed, Instr.wf, Bool.and_eq_true, Bool.not_eq_true'] at hwf
    obtain ⟨⟨haa, hnn⟩, rfl⟩ := hwf
    rw [encode, decode_keywordLine p (by decide)
        (by simp [wfToken_addrText haa, wfToken_lenText hnn]),
      decodeCommand_read, addrArg_of_addrText rfl haa, lenArg_of_lenText rfl hnn]
    rfl
  | write aa nn data extra =>
    simp only [Instr.WellFormed, Instr.wf, Bool.and_eq_true, Bool.not_eq_true'] at hwf
    obtain ⟨⟨⟨haa, hnn⟩, hdata⟩, rfl⟩ := hwf
    rw [encode, decode_keywordLine p (by decide)
        (by simp [wfToken_addrText haa, wfToken_lenText hnn, wfToken_dataText hnn hdata]),
      decodeCommand_write, addrArg_of_addrText rfl haa, lenArg_of_lenText rfl hnn, dataArg_of_dataText rfl hdata]
    rfl
  | writeRead aa n1 data1 n2 extra =>
    simp only [Instr.WellFormed, Instr.wf, Bool.and_eq_true, Bool.not_eq_true'] at hwf
    obtain ⟨⟨⟨⟨haa, hn1⟩, hdata1⟩, hn2⟩, rfl⟩ := hwf
    rw [encode, decode_keywordLine p (by decide)
        (by simp [wfToken_addrText haa, wfToken_lenText hn1, wfToken_dataText hn1 hdata1, wfToken_lenText hn2]),
      decodeCommand_writeRead, addrArg_of_addrText rfl haa, lenArg_of_lenText rfl hn1, dataArg_of_dataText rfl hdata1,
      lenArg_of_lenText rfl hn2]
    rfl
  | writeWrite aa n1 data1 n2 data2 extra =>
    simp only [Instr.WellFormed, Instr.wf, Bool.and_eq_true, Bool.not_eq_true'] at hwf
    obtain ⟨⟨⟨⟨⟨haa, hn1⟩, hdata1⟩, hn2⟩, hdata2⟩, rfl⟩ := hwf
    rw [encode, decode_keywordLine p (by decide)
        (by simp [wfToken_addrText haa, wfToken_lenText hn1, wfToken_dataText hn1 hdata1, wfToken_lenText hn2,
          wfToken_dataText hn2 hdata2]),
      decodeCommand_writeWrite, addrArg_of_addrText rfl haa, lenArg_of_lenText rfl hn1, dataArg_of_dataText rfl hdata1,
      lenArg_of_lenText rfl hn2, dataArg_of_dataText rfl hdata2]
    rfl
  | unrecognized kw =>
    simp only [Instr.WellFormed, Instr.wf, Bool.and_eq_true, Bool.not_eq_true', List.contains_iff_mem,
      ← Bool.not_eq_true] at hwf
    obtain ⟨hwfkw, hother⟩ := hwf
    rw [encode, decode_lineText p (by simpa using hwfkw), decodeCommand_of_notMem p [] hother]
  | _ => cases hform

/-! ## Request records (R174, log 9) -/

/-- `k` bytes hold the naturals below `256 ^ k`. -/
theorem bytesToNat_natToBytes {k v : Nat} (h : v < 256 ^ k) : bytesToNat (natToBytes k v) = v := by
  induction k generalizing v with
  | zero => simp_all [natToBytes, bytesToNat]
  | succ k ih =>
    have hhigh : v / 256 < 256 ^ k := Nat.div_lt_of_lt_mul (by rwa [Nat.pow_succ, Nat.mul_comm] at h)
    simp only [natToBytes, bytesToNat, ih hhigh, BitVec.toNat_ofNat]
    omega

/-- A value below the top of memory fits in the bytes of a pointer. -/
theorem lt_pow_ptrBytes {p : Params} {v : Nat} (h : v < 2 ^ p.ptrBits) : v < 256 ^ ptrBytes p := by
  calc v < 2 ^ p.ptrBits := h
    _ ≤ 2 ^ (8 * ptrBytes p) := Nat.pow_le_pow_right (by omega) (by unfold ptrBytes; omega)
    _ = 256 ^ ptrBytes p := by rw [Nat.pow_mul]

/-- A field of one byte is the byte at its offset. -/
theorem field_one (bs : List Byte) (k : Nat) : field bs k 1 = (bs[k]?.getD 0).toNat := by
  rw [field, List.take_one, List.head?_drop]
  cases bs[k]? <;> rfl

/-- The values of a record whose fields its bytes can hold. -/
structure Request.Fits (p : Params) (r : Request) : Prop where
  buf : r.buf < 2 ^ p.ptrBits
  lenPos : 1 ≤ r.len
  len : r.len ≤ 2 ^ p.ptrBits
  buf2 : r.buf2 < 2 ^ p.ptrBits
  len2Pos : 1 ≤ r.len2
  len2 : r.len2 ≤ 2 ^ p.ptrBits

theorem natToBytes_drop_of_le {k j : Nat} (v : Nat) (h : k ≤ j) : (natToBytes k v).drop j = [] :=
  List.drop_eq_nil_of_le (by simpa using h)

section
variable (p : Params) (r : Request)

theorem field_requestToBytes_op : field (requestToBytes p r) 0 1 = r.op.toNat := by
  have hop : r.op.toNat % 256 = r.op.toNat := by omega
  simp [field_one, requestToBytes, hop]

theorem field_requestToBytes_addr : field (requestToBytes p r) 1 1
    = r.addr.toNat + (if r.dir = .R then 128 else 0) := by
  simp only [field_one, requestToBytes, List.getElem?_cons_succ, List.getElem?_cons_zero, Option.getD_some,
    BitVec.toNat_ofNat]
  split <;> omega

theorem field_requestToBytes_cont : field (requestToBytes p r) 2 1 = if r.cont then 1 else 0 := by
  cases hcont : r.cont <;> simp [field_one, requestToBytes, hcont]

theorem field_requestToBytes_buf : field (requestToBytes p r) 3 (ptrBytes p)
    = bytesToNat (natToBytes (ptrBytes p) r.buf) := by
  simp [field, requestToBytes]

theorem field_requestToBytes_len : field (requestToBytes p r) (3 + ptrBytes p) (ptrBytes p)
    = bytesToNat (natToBytes (ptrBytes p) (r.len - 1)) := by
  simp [field, requestToBytes, Nat.add_comm 3]

theorem field_requestToBytes_buf2 : field (requestToBytes p r) (3 + 2 * ptrBytes p) (ptrBytes p)
    = bytesToNat (natToBytes (ptrBytes p) r.buf2) := by
  simp [field, requestToBytes, Nat.add_comm 3, Nat.two_mul, List.drop_append, natToBytes_drop_of_le]

theorem field_requestToBytes_len2 : field (requestToBytes p r) (3 + 3 * ptrBytes p) (ptrBytes p)
    = bytesToNat (natToBytes (ptrBytes p) (r.len2 - 1)) := by
  have hthree : 3 * ptrBytes p = ptrBytes p + ptrBytes p + ptrBytes p := by omega
  simp [field, requestToBytes, Nat.add_comm 3, hthree, List.drop_append, natToBytes_drop_of_le, List.take_of_length_le]

end

/-- A record whose values fit its fields reads back. -/
theorem bytesToRequest_requestToBytes {p : Params} {r : Request} (h : r.Fits p) :
    bytesToRequest p (requestToBytes p r) = r := by
  obtain ⟨op, addr, dir, cont, buf, len, buf2, len2⟩ := r
  obtain ⟨hbuf, hlenPos, hlen, hbuf2, hlen2Pos, hlen2⟩ := h
  dsimp only at hbuf hlenPos hlen hbuf2 hlen2Pos hlen2
  have hlen' : len - 1 < 2 ^ p.ptrBits := by omega
  have hlen2' : len2 - 1 < 2 ^ p.ptrBits := by omega
  have haddr : BitVec.ofNat 7 (addr.toNat + (if dir = .R then 128 else 0)) = addr := by
    apply BitVec.eq_of_toNat_eq
    rw [BitVec.toNat_ofNat]
    split <;> omega
  have hdir : (if 128 ≤ addr.toNat + (if dir = .R then 128 else 0) then Dir.R else Dir.W) = dir := by
    cases dir with
    | W => exact if_neg (by rw [if_neg Dir.noConfusion]; omega)
    | R => exact if_pos (by simp)
  have hcont : ((if cont = true then 1 else 0) % 2 == 1) = cont := by cases cont <;> rfl
  simp only [bytesToRequest, field_requestToBytes_op, field_requestToBytes_addr, field_requestToBytes_cont,
    field_requestToBytes_buf, field_requestToBytes_len, field_requestToBytes_buf2, field_requestToBytes_len2,
    bytesToNat_natToBytes (lt_pow_ptrBytes hbuf), bytesToNat_natToBytes (lt_pow_ptrBytes hlen'),
    bytesToNat_natToBytes (lt_pow_ptrBytes hbuf2), bytesToNat_natToBytes (lt_pow_ptrBytes hlen2'),
    BitVec.ofNat_toNat, BitVec.setWidth_eq, haddr, hdir, hcont, Nat.sub_add_cancel hlenPos,
    Nat.sub_add_cancel hlen2Pos]

/-- The bytes of a record whose values fit its fields decode by its op (R175). -/
theorem decode_requestToBytes {p : Params} {r : Request} (h : r.Fits p) :
    decode p .request (requestToBytes p r) = .ok (decodeRequest r) := by
  have hne : requestToBytes p r ≠ [] := List.cons_ne_nil _ _
  have hop : ¬ 8 ≤ field (requestToBytes p r) 0 1 := by rw [field_requestToBytes_op]; omega
  simp [decode, hne, hop, bytesToRequest_requestToBytes h]

/-! ## Engine requests (R175, R264) -/

theorem wfBuf_iff {p : Params} {buf len : Nat} :
    wfBuf p buf len = true ↔ 1 ≤ len ∧ buf + len ≤ 2 ^ p.ptrBits := by
  rw [wfBuf, Bool.and_eq_true, decide_eq_true_eq, decide_eq_true_eq]

/-- A record of one buffer, its second one unused. -/
theorem Request.fits_one {p : Params} {buf len : Nat} (h : wfBuf p buf len = true) (op : BitVec 3) (addr : Addr7)
    (dir : Dir) (cont : Bool) : Request.Fits p ⟨op, addr, dir, cont, buf, len, 0, 1⟩ := by
  obtain ⟨hpos, htop⟩ := wfBuf_iff.mp h
  constructor <;> dsimp only <;> omega

theorem Request.fits_two {p : Params} {buf len buf2 len2 : Nat} (h : wfBuf p buf len = true)
    (h2 : wfBuf p buf2 len2 = true) (op : BitVec 3) (addr : Addr7) (dir : Dir) (cont : Bool) :
    Request.Fits p ⟨op, addr, dir, cont, buf, len, buf2, len2⟩ := by
  obtain ⟨hpos, htop⟩ := wfBuf_iff.mp h
  obtain ⟨hpos2, htop2⟩ := wfBuf_iff.mp h2
  constructor <;> dsimp only <;> omega

/-- A record that uses no buffer. -/
theorem Request.fits_none (p : Params) (op : BitVec 3) (addr : Addr7) (dir : Dir) (cont : Bool) :
    Request.Fits p ⟨op, addr, dir, cont, 0, 1, 0, 1⟩ :=
  fits_one (wfBuf_iff.mpr ⟨Nat.le_refl 1, Nat.one_le_two_pow⟩) op addr dir cont

/-- The record of a well-formed engine request decodes to it. -/
theorem decode_encode_request (p : Params) {i : Instr} (hform : i.form = .request) (hwf : i.WellFormed p) :
    decode p .request (encode p i) = .ok i := by
  cases i with
  | transfer addr dir buf len cont => exact decode_requestToBytes (Request.fits_one hwf 0 addr dir cont)
  | i2cRead addr buf len => exact decode_requestToBytes (Request.fits_one hwf 1 addr .W false)
  | i2cWrite addr buf len => exact decode_requestToBytes (Request.fits_one hwf 2 addr .W false)
  | i2cWriteRead addr buf len buf2 len2 =>
    obtain ⟨h, h2⟩ := Bool.and_eq_true_iff.mp hwf
    exact decode_requestToBytes (Request.fits_two h h2 3 addr .W false)
  | i2cWriteWrite addr buf len buf2 len2 =>
    obtain ⟨h, h2⟩ := Bool.and_eq_true_iff.mp hwf
    exact decode_requestToBytes (Request.fits_two h h2 4 addr .W false)
  | chunk addr dir buf n cont =>
    obtain ⟨h, -⟩ := Bool.and_eq_true_iff.mp hwf
    exact decode_requestToBytes (Request.fits_one h 5 addr dir cont)
  | softReset => exact decode_requestToBytes (Request.fits_none p 6 0 .W false)
  | reserved => exact decode_requestToBytes (Request.fits_none p 7 0 .W false)
  | _ => cases hform

/-! ## Address bytes (R171) -/

theorem decodeWire_wireByte_W (a : Addr7) : decodeWire (wireByte a .W) = .addrW a := by
  have hbyte : (wireByte a .W).toNat = 2 * a.toNat := by simp only [wireByte, BitVec.toNat_ofNat]; omega
  have hhalf : 2 * a.toNat / 2 = a.toNat := by omega
  simp only [decodeWire, hbyte, hhalf, Nat.mul_mod_right, zero_ne_one, if_false, BitVec.ofNat_toNat, BitVec.setWidth_eq]

theorem decodeWire_wireByte_R (a : Addr7) : decodeWire (wireByte a .R) = .addrR a := by
  have hbyte : (wireByte a .R).toNat = 2 * a.toNat + 1 := by simp only [wireByte, BitVec.toNat_ofNat]; omega
  have hhalf : (2 * a.toNat + 1) / 2 = a.toNat := by omega
  have hodd : (2 * a.toNat + 1) % 2 = 1 := by omega
  simp only [decodeWire, hbyte, hhalf, hodd, if_true, BitVec.ofNat_toNat, BitVec.setWidth_eq]

/-- Settles O1: each encoding reads back what it writes. -/
theorem decodeAfterEncode : Obligations.DecodeAfterEncode := by
  intro p i hwf
  cases hform : i.form with
  | line => exact decode_encode_line p hform hwf
  | request => exact decode_encode_request p hform hwf
  | wire =>
    cases i with
    | addrW a => exact congrArg Except.ok (decodeWire_wireByte_W a)
    | addrR a => exact congrArg Except.ok (decodeWire_wireByte_R a)
    | _ => cases hform

/-- Settles O7: each word evaluates to what it stands for. -/
theorem specWordsDecode : Obligations.SpecWordsDecode := by
  refine ⟨?ping, ?read, ?write, ?softReset, ?addrW, ?addrR⟩ <;> decide

/-! ## What each token of a line decodes to (R163, R375) -/

theorem operandAt_eq_bind {α : Type} (args : List (List Byte)) (k : Nat) (f : List Byte → Option α) :
    operandAt args k f = args[k]?.bind f := by
  unfold operandAt
  split
  · rename_i hk; rw [List.getElem?_eq_getElem hk, Option.bind_some]
  · rename_i hk; rw [List.getElem?_eq_none (by omega), Option.bind_none]

theorem addrArg_eq_operandAt (p : Params) (args : List (List Byte)) (k : Nat) :
    addrArg p args k = operandAt args k (addrDecode p.addrHigh) := (operandAt_eq_bind _ _ _).symm

theorem lenArg_eq_operandAt (p : Params) (args : List (List Byte)) (k : Nat) :
    lenArg p args k = operandAt args k (decDecode p.lenToken) := (operandAt_eq_bind _ _ _).symm

/-- Data are decoded by the length at the index before them (R377). -/
theorem dataArg_eq_dataAt (p : Params) (args : List (List Byte)) (k : Nat) :
    dataArg args (k + 1) (lenArg p args k) = dataAt p args (k + 1) := by
  rw [dataAt, Nat.add_sub_cancel, operandAt_eq_bind, ← lenArg_eq_operandAt]
  cases hk : args[k + 1]? with
  | none => simp [dataArg, hk]
  | some t => cases hn : lenArg p args k <;> simp [dataArg, hk]

theorem decodeLine_of_tokens_nil {p : Params} {line : List Byte} (h : tokens p.tokenize line = []) :
    decodeLine p line = .unrecognized [] := by
  simp only [decodeLine, h]

theorem decodeLine_of_tokens_cons {p : Params} {line kw : List Byte} {args : List (List Byte)}
    (h : tokens p.tokenize line = kw :: args) : decodeLine p line = decodeCommand p kw args := by
  simp only [decodeLine, h]

/-- Under `collapse` the empty tokens are dropped. -/
theorem tokens_collapse (line : List Byte) :
    tokens .collapse line = (tokens .single line).filter (fun t => t.length ≠ 0) := by
  refine List.filter_congr fun t _ => ?_
  cases t <;> rfl

/-- Settles O6: `single` splits as the library does, and a line decodes to the command of its tokens. -/
theorem tokensSplitAtSpaces : Obligations.TokensSplitAtSpaces := by
  refine ⟨fun line => ⟨?joined, fun t ht => ne_space_of_mem_splitSpaces ht, tokens_collapse line⟩,
    fun p line kw args => ⟨decodeLine_of_tokens_nil, fun h => ?command⟩⟩
  case joined => rw [tokens, splitSpaces_eq_splitOn]; exact List.intercalate_splitOn _
  case command =>
    rw [decodeLine_of_tokens_cons h]
    simp only [← addrArg_eq_operandAt, ← lenArg_eq_operandAt, ← dataArg_eq_dataAt]
    refine ⟨?ping, ?read, ?write, ?writeRead, ?writeWrite, fun hkw => decodeCommand_of_notMem p args hkw⟩
    case ping => rintro rfl; exact decodeCommand_ping p args
    case read => rintro rfl; exact decodeCommand_read p args
    case write => rintro rfl; exact decodeCommand_write p args
    case writeRead => rintro rfl; exact decodeCommand_writeRead p args
    case writeWrite => rintro rfl; exact decodeCommand_writeWrite p args

end Sys2Proof

/-!
PROOFS. What is answered and what is refused: a dispatched line with no request in flight always answers a next state (O16);
op 7, and ops 5 and 6 from outside the engine, never do (O20).
-/

namespace Sys2Proof.Machine

/-- The step answers a next state: no fault, no refusal. -/
def Answered (o : Result) : Prop := ∃ t, o = .next t

theorem answered_next (t : State) : Answered (.next t) := ⟨t, rfl⟩

/-- A call of one transfer that R264 gives no ground to refuse is answered. -/
theorem makeCall_refuseOne_answered {s : State} {buf len : Nat} (c : Call) (hlen : 1 ≤ len)
    (hmem : buf + len ≤ memTop s.cfg) (hidle : s.inFlight = false) : Answered (s.makeCall (refuseOne s buf len) c) := by
  rw [refuseOne_eq_none.mpr ⟨hlen, hmem, hidle⟩]
  exact answered_next _

/-- A call of two transfers that R264 gives no ground to refuse is answered. -/
theorem makeCall_refuseTwo_answered {s : State} {buf len buf2 len2 : Nat} (c : Call) (hlen : 1 ≤ len)
    (hmem : buf + len ≤ memTop s.cfg) (hmem2 : buf2 + len2 ≤ memTop s.cfg) (hidle : s.inFlight = false) :
    Answered (s.makeCall (refuseTwo s buf len buf2 len2) c) := by
  rw [refuseTwo_eq_none.mpr ⟨hlen, hmem, hmem2, hidle⟩]
  exact answered_next _

/-- A checked length is at most one of the Shell's buffers (R165, R72). -/
theorem checkLen_le {nn : Option Nat} {n : Nat} (h : checkLen nn = some n) : n ≤ Config.cmdLenMax := by
  obtain ⟨-, hmax⟩ := Bool.and_eq_true_iff.mp (Option.filter_eq_some_iff.mp h).2
  exact of_decide_eq_true hmax

/-- A checked length fits wherever one of the Shell's buffers does. -/
theorem checkLen_fits {nn : Option Nat} {n buf top : Nat} (h : checkLen nn = some n)
    (hbuf : buf + Config.cmdLenMax ≤ top) : buf + n ≤ top := by
  have := checkLen_le h
  omega

section
variable {s : State} (hidle : s.inFlight = false)
include hidle

theorem execRead_answered (aa : Option Addr7) (nn : Option Nat) (extra : Bool)
    (hrbuf : s.cfg.rbuf + Config.cmdLenMax ≤ memTop s.cfg) : Answered (execRead aa nn extra s) := by
  unfold execRead
  split
  · rename_i hnn
    split
    · exact answered_next _
    · exact makeCall_refuseOne_answered _ (checkLen_pos hnn) (checkLen_fits hnn hrbuf) hidle
  · exact answered_next _

theorem execWrite_answered (aa : Option Addr7) (nn : Option Nat) (data : Option (List Byte)) (extra : Bool)
    (hwbuf1 : s.cfg.wbuf1 + Config.cmdLenMax ≤ memTop s.cfg) : Answered (execWrite aa nn data extra s) := by
  unfold execWrite
  split
  · rename_i hnn
    split
    · dsimp only
      split
      · exact answered_next _
      · exact makeCall_refuseOne_answered _ (checkLen_pos hnn) (checkLen_fits hnn hwbuf1) hidle
    · exact answered_next _
  · exact answered_next _

theorem execWriteRead_answered (aa : Option Addr7) (n1 : Option Nat) (data1 : Option (List Byte)) (n2 : Option Nat)
    (extra : Bool) (hwbuf1 : s.cfg.wbuf1 + Config.cmdLenMax ≤ memTop s.cfg)
    (hrbuf : s.cfg.rbuf + Config.cmdLenMax ≤ memTop s.cfg) : Answered (execWriteRead aa n1 data1 n2 extra s) := by
  unfold execWriteRead
  split
  · rename_i hn1
    split
    · dsimp only
      split
      · rename_i hn2
        split
        · exact answered_next _
        · exact makeCall_refuseTwo_answered _ (checkLen_pos hn1) (checkLen_fits hn1 hwbuf1) (checkLen_fits hn2 hrbuf)
            hidle
      · exact answered_next _
    · exact answered_next _
  · exact answered_next _

theorem execWriteWrite_answered (aa : Option Addr7) (n1 : Option Nat) (data1 : Option (List Byte)) (n2 : Option Nat)
    (data2 : Option (List Byte)) (extra : Bool) (hwbuf1 : s.cfg.wbuf1 + Config.cmdLenMax ≤ memTop s.cfg)
    (hwbuf2 : s.cfg.wbuf2 + Config.cmdLenMax ≤ memTop s.cfg) :
    Answered (execWriteWrite aa n1 data1 n2 data2 extra s) := by
  unfold execWriteWrite
  split
  · rename_i hn1
    split
    · dsimp only
      split
      · rename_i hn2
        split
        · split
          · exact answered_next _
          · exact makeCall_refuseTwo_answered _ (checkLen_pos hn1) (checkLen_fits hn1 hwbuf1)
              (checkLen_fits hn2 hwbuf2) hidle
        · exact answered_next _
      · exact answered_next _
    · exact answered_next _
  · exact answered_next _

/-- A command line is answered: the Shell's buffers hold what its checks let through (R382). -/
theorem exec_line_answered {i : Instr} (hi : i.form = .line) (hcfg : ParamsOk s.cfg) : Answered (exec i s) := by
  obtain ⟨-, -, -, hwbuf1, hwbuf2, hrbuf, -⟩ := hcfg
  cases i with
  | ping extra => simp only [exec, execPing]; split <;> exact answered_next _
  | read aa nn extra => exact execRead_answered hidle aa nn extra hrbuf
  | write aa nn data extra => exact execWrite_answered hidle aa nn data extra hwbuf1
  | writeRead aa n1 data1 n2 extra => exact execWriteRead_answered hidle aa n1 data1 n2 extra hwbuf1 hrbuf
  | writeWrite aa n1 data1 n2 data2 extra =>
    exact execWriteWrite_answered hidle aa n1 data1 n2 data2 extra hwbuf1 hwbuf2
  | unrecognized kw => exact answered_next _
  | _ => cases hi

end

/-- Settles O16: a line decodes to a command line, and every command line is answered. -/
theorem everyLineIsAnswered : Obligations.EveryLineIsAnswered := fun s line hcfg hidle =>
  ⟨decodeLine_form s.cfg line, exec_line_answered hidle (decodeLine_form s.cfg line) hcfg⟩

/-! ## What is refused by its op (R175) -/

theorem exec_reserved (s : State) : exec .reserved s = .refused .reservedOp := rfl

section
variable {s : State} (h : s.fromOutside = true)
include h

theorem exec_chunk_fromOutside (addr : Addr7) (dir : Dir) (buf n : Nat) (cont : Bool) :
    exec (.chunk addr dir buf n cont) s = .refused .internalOp := by
  simp only [exec, execChunk, h, if_true]

theorem exec_softReset_fromOutside : exec .softReset s = .refused .internalOp := by
  simp only [exec, execSoftReset, h, if_true]

end

/-- Settles O20: an engine client's step is what comes from outside. -/
theorem reservedAndInternalOpsRefused : Obligations.ReservedAndInternalOpsRefused := by
  intro addr dir buf n cont s
  refine ⟨exec_reserved s, fun hmove => ?_⟩
  have hout : s.fromOutside = true := by simp [State.fromOutside, hmove]
  exact ⟨exec_chunk_fromOutside hout addr dir buf n cont, exec_softReset_fromOutside hout⟩

end Sys2Proof.Machine

/-!
PROOFS. BERR changes nothing (O56). Every step but three commutes with writing BERR; the disable and the noise overwrite it,
and the bus-error handler, whose turn it decides, writes nothing else.
-/

namespace Sys2Proof.Machine

/-! ## Writing BERR before a step, and after it -/

/-- BERR written, and nothing else. -/
def State.withBerr (s : State) (b : Bool) : State := { s with i2c := { s.i2c with berr := b } }

@[simp] theorem State.withBerr_cfg (s : State) (b : Bool) : (s.withBerr b).cfg = s.cfg := rfl
@[simp] theorem State.withBerr_phase (s : State) (b : Bool) : (s.withBerr b).phase = s.phase := rfl
@[simp] theorem State.withBerr_txn (s : State) (b : Bool) : (s.withBerr b).txn = s.txn := rfl
@[simp] theorem State.withBerr_eng (s : State) (b : Bool) : (s.withBerr b).eng = s.eng := rfl
@[simp] theorem State.withBerr_usb (s : State) (b : Bool) : (s.withBerr b).usb = s.usb := rfl
@[simp] theorem State.withBerr_sh (s : State) (b : Bool) : (s.withBerr b).sh = s.sh := rfl
@[simp] theorem State.withBerr_host (s : State) (b : Bool) : (s.withBerr b).host = s.host := rfl
@[simp] theorem State.withBerr_now (s : State) (b : Bool) : (s.withBerr b).now = s.now := rfl
@[simp] theorem State.withBerr_sched (s : State) (b : Bool) : (s.withBerr b).sched = s.sched := rfl
@[simp] theorem State.withBerr_nackf (s : State) (b : Bool) : (s.withBerr b).i2c.nackf = s.i2c.nackf := rfl
@[simp] theorem State.withBerr_bus (s : State) (b : Bool) : (s.withBerr b).i2c.bus = s.i2c.bus := rfl
@[simp] theorem State.withBerr_ready (s : State) (b : Bool) : (s.withBerr b).i2c.ready = s.i2c.ready := rfl
@[simp] theorem State.withBerr_drawAck (s : State) (b : Bool) : (s.withBerr b).drawAck = s.drawAck := rfl
@[simp] theorem State.withBerr_drawBit (s : State) (b : Bool) : (s.withBerr b).drawBit = s.drawBit := rfl

theorem noBerr_withBerr (s : State) (b : Bool) : noBerr (s.withBerr b) = noBerr s := rfl

/-- BERR written in the next state, where there is one. -/
def Result.withBerr (o : Result) (b : Bool) : Result :=
  match o with
  | .next s => .next (s.withBerr b)
  | .fault f => .fault f
  | .refused r => .refused r

theorem State.withBerr_ite (c : Prop) [Decidable c] (s t : State) (b : Bool) :
    (if c then s else t).withBerr b = if c then s.withBerr b else t.withBerr b := apply_ite (State.withBerr · b) c s t

theorem Result.withBerr_ite (c : Prop) [Decidable c] (o o' : Result) (b : Bool) :
    Result.withBerr (if c then o else o') b = if c then o.withBerr b else o'.withBerr b :=
  apply_ite (Result.withBerr · b) c o o'

/-- Two outcomes agree but for BERR: the same refusal, or next states that differ at most in BERR. -/
def AgreeButBerr (o o' : Result) : Prop :=
  match o, o' with
  | .next u, .next v => noBerr u = noBerr v
  | .refused r, .refused r' => r = r'
  | _, _ => False

theorem agreeButBerr_withBerr (o : Result) (b : Bool) : AgreeButBerr o (o.withBerr b) := by
  cases o with
  | next s => exact (noBerr_withBerr s b).symm
  | fault f => cases f
  | refused r => rfl

section
variable (s : State) (b : Bool)

/-! ## Instructions -/

theorem State.makeCall_withBerr (why : Option Refusal) (c : Call) :
    (s.withBerr b).makeCall why c = (s.makeCall why c).withBerr b := by
  cases why <;> rfl

theorem execPing_withBerr (extra : Bool) : execPing extra (s.withBerr b) = (execPing extra s).withBerr b := by
  by_cases h : extraBad s.cfg extra = true <;> simp only [execPing, State.withBerr_cfg, h] <;> rfl

theorem execRead_withBerr (aa : Option Addr7) (nn : Option Nat) (extra : Bool) :
    execRead aa nn extra (s.withBerr b) = (execRead aa nn extra s).withBerr b := by
  simp only [execRead, State.withBerr_cfg]
  split
  · by_cases h : extraBad s.cfg extra = true
    · simp only [h, if_true]; rfl
    · simp only [h]; exact s.makeCall_withBerr b _ _
  · rfl

theorem execWrite_withBerr (aa : Option Addr7) (nn : Option Nat) (data : Option (List Byte)) (extra : Bool) :
    execWrite aa nn data extra (s.withBerr b) = (execWrite aa nn data extra s).withBerr b := by
  simp only [execWrite, State.withBerr_cfg]
  split
  · split
    · by_cases h : extraBad s.cfg extra = true
      · simp only [h, if_true]; rfl
      · simp only [h]; exact (s.fillBuf _ _).makeCall_withBerr b _ _
    · rfl
  · rfl

theorem execWriteRead_withBerr (aa : Option Addr7) (n1 : Option Nat) (data1 : Option (List Byte)) (n2 : Option Nat)
    (extra : Bool) :
    execWriteRead aa n1 data1 n2 extra (s.withBerr b) = (execWriteRead aa n1 data1 n2 extra s).withBerr b := by
  simp only [execWriteRead, State.withBerr_cfg]
  split
  · split
    · split
      · by_cases h : extraBad s.cfg extra = true
        · simp only [h, if_true]; rfl
        · simp only [h]; exact (s.fillBuf _ _).makeCall_withBerr b _ _
      · rfl
    · rfl
  · rfl

theorem execWriteWrite_withBerr (aa : Option Addr7) (n1 : Option Nat) (data1 : Option (List Byte)) (n2 : Option Nat)
    (data2 : Option (List Byte)) (extra : Bool) :
    execWriteWrite aa n1 data1 n2 data2 extra (s.withBerr b)
      = (execWriteWrite aa n1 data1 n2 data2 extra s).withBerr b := by
  simp only [execWriteWrite, State.withBerr_cfg]
  split
  · split
    · split
      · split
        · by_cases h : extraBad s.cfg extra = true
          · simp only [h, if_true]; rfl
          · simp only [h]; exact ((s.fillBuf _ _).fillBuf _ _).makeCall_withBerr b _ _
        · rfl
      · rfl
    · rfl
  · rfl

theorem execChunk_withBerr (addr : Addr7) (dir : Dir) (buf n : Nat) (cont : Bool) :
    execChunk addr dir buf n cont (s.withBerr b) = (execChunk addr dir buf n cont s).withBerr b := by
  simp only [execChunk, Result.withBerr_ite]
  rfl

theorem execSoftReset_withBerr : execSoftReset (s.withBerr b) = (execSoftReset s).withBerr b := by
  simp only [execSoftReset, Result.withBerr_ite]
  rfl

theorem pAddrStep_withBerr (a : Addr7) (d : Dir) (n : Nat) :
    pAddrStep a d n (s.withBerr b) = (pAddrStep a d n s).withBerr b := by
  simp only [pAddrStep, State.withBerr_drawAck]
  split <;> rfl

theorem putAddress_withBerr (a : Addr7) (d : Dir) : putAddress a d (s.withBerr b) = (putAddress a d s).withBerr b := by
  simp only [putAddress, State.withBerr_bus, State.withBerr_ready]
  split
  · rw [pAddrStep_withBerr, Result.withBerr_ite]; rfl
  · rfl

/-- The meaning of an instruction neither reads nor writes BERR. -/
theorem exec_withBerr (i : Instr) : exec i (s.withBerr b) = Result.withBerr (exec i s) b := by
  cases i with
  | ping => exact execPing_withBerr s b _
  | read => exact execRead_withBerr s b _ _ _
  | write => exact execWrite_withBerr s b _ _ _ _
  | writeRead => exact execWriteRead_withBerr s b _ _ _ _ _
  | writeWrite => exact execWriteWrite_withBerr s b _ _ _ _ _ _
  | unrecognized | reserved => rfl
  | transfer | i2cRead | i2cWrite | i2cWriteRead | i2cWriteWrite => exact s.makeCall_withBerr b _ _
  | chunk => exact execChunk_withBerr s b _ _ _ _ _
  | softReset => exact execSoftReset_withBerr s b
  | addrW a => exact putAddress_withBerr s b a .W
  | addrR a => exact putAddress_withBerr s b a .R

/-! ## The sequencer -/

/-- A chunk step that reads TXN commutes with writing BERR where its effect does. -/
theorem State.withTxn_withBerr {f g : Txn → State} (h : ∀ t, g t = (f t).withBerr b) :
    (s.withBerr b).withTxn g = (s.withTxn f).withBerr b := by
  show s.withTxn g = _
  obtain rfl : g = fun t => (f t).withBerr b := funext h
  unfold State.withTxn
  split <;> rfl

theorem armStep_withBerr (t : Txn) : armStep (s.withBerr b) t = (armStep s t).withBerr b := by
  unfold armStep
  cases t.dir <;> rfl

theorem endmaStep_withBerr (t : Txn) : endmaStep (s.withBerr b) t = (endmaStep s t).withBerr b := by
  unfold endmaStep
  cases t.dir <;> rfl

theorem dmaoffStep_withBerr (t : Txn) : dmaoffStep (s.withBerr b) t = (dmaoffStep s t).withBerr b := by
  unfold dmaoffStep
  cases t.dir <;> rfl

/-- EVAL does not read BERR (R215, R216). -/
theorem evalStep_withBerr (t : Txn) : evalStep (s.withBerr b) t = (evalStep s t).withBerr b := by
  have hres : evalRes (s.withBerr b) t = evalRes s t := rfl
  have hcause : evalCause (s.withBerr b) t = evalCause s t := rfl
  cases h : s.i2c.nackf <;> simp only [evalStep, State.withBerr_nackf, hres, hcause, h] <;> rfl

theorem stopreqStep_withBerr (t : Txn) : stopreqStep (s.withBerr b) t = (stopreqStep s t).withBerr b := by
  by_cases h : s.eng.timedOut = false ∧ t.cont = false
  · simp only [stopreqStep, State.withBerr_eng, h, and_self, if_true]; rfl
  · simp only [stopreqStep, State.withBerr_eng, h, if_false]; rfl

theorem State.spoilChunk_withBerr : (s.withBerr b).spoilChunk = s.spoilChunk.withBerr b := by
  simp only [State.spoilChunk, State.withBerr_txn, State.withBerr_eng]
  split
  · rw [State.withBerr_ite]; rfl
  · rfl

theorem State.returnCall_withBerr (c : Call) (ok : Bool) :
    (s.withBerr b).returnCall c ok = (s.returnCall c ok).withBerr b := by
  unfold State.returnCall State.spoilReadBuf State.replyFor
  cases c.reply <;> cases c.readBuf <;> cases ok <;> rfl

theorem State.returnXfer_withBerr (c : Call) : (s.withBerr b).returnXfer c = (s.returnXfer c).withBerr b := by
  simp only [State.returnXfer, State.withBerr_eng, State.withBerr_ite, State.returnCall_withBerr]
  cases c.next <;> rfl

theorem State.returnChunk_withBerr (c : Call) (n : Nat) :
    (s.withBerr b).returnChunk c n = (s.returnChunk c n).withBerr b := by
  have hxfer := State.returnXfer_withBerr { s with eng := { s.eng with total := s.eng.total + s.eng.res.toNat } } b c
  simp only [State.returnChunk, State.withBerr_ite, ← hxfer]
  rfl

theorem State.chunkDone_withBerr : (s.withBerr b).chunkDone = s.chunkDone.withBerr b := by
  cases hc : s.call with
  | none => rw [State.chunkDone_none hc, State.chunkDone_none (s := s.withBerr b) hc]
  | some c =>
    rw [State.chunkDone_some hc, State.chunkDone_some (s := s.withBerr b) hc, State.returnChunk_withBerr]

theorem rearmStep_withBerr : rearmStep (s.withBerr b) = (rearmStep s).withBerr b := by
  have h := (s.rearmSources.setPhase .IDLE).spoilChunk_withBerr b
  have hd := (s.rearmSources.setPhase .IDLE).spoilChunk.discardTxn.chunkDone_withBerr b
  exact (congrArg (fun u => u.discardTxn.chunkDone) h).trans hd

theorem sequencerStep_withBerr : sequencerStep (s.withBerr b) = (sequencerStep s).withBerr b := by
  simp only [sequencerStep, State.withBerr_phase]
  cases s.phase with
  | ARM => exact s.withTxn_withBerr b (armStep_withBerr s b)
  | ENDMA => exact s.withTxn_withBerr b (endmaStep_withBerr s b)
  | EVAL => exact s.withTxn_withBerr b (evalStep_withBerr s b)
  | STOPREQ => exact s.withTxn_withBerr b (stopreqStep_withBerr s b)
  | DMAOFF => exact s.withTxn_withBerr b (dmaoffStep_withBerr s b)
  | REARM => exact congrArg Host.Outcome.next (rearmStep_withBerr s b)
  | _ => rfl

/-! ## The Shell's loop, the transport and the bus -/

theorem handleByte_withBerr (c : Byte) : handleByte c (s.withBerr b) = (handleByte c s).withBerr b := by
  simp only [handleByte, State.withBerr_ite]
  rfl

theorem sendPostStep_withBerr : sendPostStep (s.withBerr b) = (sendPostStep s).withBerr b := by
  simp only [sendPostStep, State.withBerr_ite]
  rfl

theorem shellLoopStep_withBerr : shellLoopStep (s.withBerr b) = (shellLoopStep s).withBerr b := by
  simp only [shellLoopStep, State.withBerr_sh, sendPostStep_withBerr]
  split
  · split
    · exact handleByte_withBerr { s.post ⟨false, !s.usb.receiving, false⟩ with sh := { s.sh with recvd := none } } b _
    · rfl
  · rfl
  · rw [State.withBerr_ite]; rfl

theorem State.pull_withBerr : (s.withBerr b).pull = s.pull.withBerr b := by
  simp only [State.pull, State.withBerr_usb]
  split
  · rfl
  · rw [State.withBerr_ite]; rfl

theorem handleEvent_withBerr (x : UsbEvent) : handleEvent x (s.withBerr b) = (handleEvent x s).withBerr b := by
  cases x with
  | outRx =>
    simp only [handleEvent, outRxStep, State.withBerr_usb]
    split
    · rw [State.withBerr_ite]; rfl
    · rfl
  | inDone => exact s.pull_withBerr b
  | ctrl => rfl

theorem pollStep_withBerr : pollStep (s.withBerr b) = (pollStep s).withBerr b := by
  have hchoose : (s.withBerr b).chooseEvent = s.chooseEvent := rfl
  simp only [pollStep, hchoose]
  split
  · rename_i x _
    exact handleEvent_withBerr { s with usb := { s.usb with events := s.usb.events.remove x } } b x
  · rw [State.withBerr_ite]; rfl

theorem sendResumeStep_withBerr : sendResumeStep (s.withBerr b) = (sendResumeStep s).withBerr b := by
  simp only [sendResumeStep, State.withBerr_ite, ← State.pull_withBerr]
  rfl

theorem svcStep_withBerr : svcStep (s.withBerr b) = (svcStep s).withBerr b := by
  have hrecv : recvResumeStep (s.withBerr b) = (recvResumeStep s).withBerr b := by
    simp only [recvResumeStep, State.withBerr_ite]
    rfl
  simp only [svcStep, State.withBerr_ite, pollStep_withBerr, sendResumeStep_withBerr, hrecv]
  rfl

theorem hostOutStep_withBerr : hostOutStep (s.withBerr b) = (hostOutStep s).withBerr b := by
  simp only [hostOutStep, State.withBerr_host]
  split <;> rfl

theorem hostInStep_withBerr : hostInStep (s.withBerr b) = (hostInStep s).withBerr b := by
  simp only [hostInStep, State.withBerr_usb]
  split <;> rfl

theorem pWbyteStep_withBerr : pWbyteStep (s.withBerr b) = (pWbyteStep s).withBerr b := by
  simp only [pWbyteStep, State.withBerr_bus, State.withBerr_drawAck]
  split
  · split <;> rfl
  · rfl

theorem pRbyteStep_withBerr : pRbyteStep (s.withBerr b) = (pRbyteStep s).withBerr b := by
  simp only [pRbyteStep, State.withBerr_bus]
  split <;> rfl

theorem pStopStep_withBerr : pStopStep (s.withBerr b) = (pStopStep s).withBerr b := by
  simp only [pStopStep, State.withBerr_ite]
  rfl

theorem dmaTxStep_withBerr : dmaTxStep (s.withBerr b) = (dmaTxStep s).withBerr b := by
  simp only [dmaTxStep, State.withBerr_ite]
  rfl

theorem dmaRxStep_withBerr : dmaRxStep (s.withBerr b) = (dmaRxStep s).withBerr b := by
  simp only [dmaRxStep, State.withBerr_ite]
  rfl

/-! ## Every step -/

/-- The steps that do not overwrite BERR commute with writing it. -/
theorem act_withBerr {m : Move} (her : m ≠ .isrI2cEr) (hdis : m ≠ .pDisable) (hnoise : m ≠ .pNoise) :
    act m (s.withBerr b) = Result.withBerr (act m s) b := by
  cases m with
  | isrI2cEr => exact absurd rfl her
  | pDisable => exact absurd rfl hdis
  | pNoise => exact absurd rfl hnoise
  | shell =>
    simp only [act, Result.withBerr_ite, State.withBerr_phase, shellLoopStep_withBerr, sequencerStep_withBerr]
    rfl
  | usbSvc => exact congrArg Host.Outcome.next (svcStep_withBerr s b)
  | hostOut => exact congrArg Host.Outcome.next (hostOutStep_withBerr s b)
  | hostIn => exact congrArg Host.Outcome.next (hostInStep_withBerr s b)
  | pWbyte => exact congrArg Host.Outcome.next (pWbyteStep_withBerr s b)
  | pRbyte => exact congrArg Host.Outcome.next (pRbyteStep_withBerr s b)
  | pStop => exact congrArg Host.Outcome.next (pStopStep_withBerr s b)
  | dmaTx => exact congrArg Host.Outcome.next (dmaTxStep_withBerr s b)
  | dmaRx => exact congrArg Host.Outcome.next (dmaRxStep_withBerr s b)
  | _ => rfl

/-- Whatever BERR is, a step other than an instruction changes nothing else by it. -/
theorem act_agreeButBerr (m : Move) : AgreeButBerr (act m s) (act m (s.withBerr b)) := by
  by_cases her : m = .isrI2cEr
  · subst her; exact rfl
  by_cases hdis : m = .pDisable
  · subst hdis; exact rfl
  by_cases hnoise : m = .pNoise
  · subst hnoise; exact rfl
  rw [act_withBerr s b her hdis hnoise]
  exact agreeButBerr_withBerr _ b

/-- BERR decides whether the bus-error handler's step is enabled, and no other step (R445, R447). -/
theorem State.enabled_withBerr {m : Move} (her : m ≠ .isrI2cEr) : (s.withBerr b).enabled m = s.enabled m := by
  cases m with
  | isrI2cEr => exact absurd rfl her
  | _ => rfl

/-- The bus-error handler's turn writes BERR at most, whether its step is enabled or not. -/
theorem micro_isrI2cEr (h : s.now.move = .isrI2cEr) : ∃ u, micro s = .next u ∧ noBerr u = noBerr s := by
  unfold micro
  rw [h]
  split
  · exact ⟨_, rfl, rfl⟩
  · exact ⟨_, rfl, rfl⟩

theorem micro_agreeButBerr : AgreeButBerr (micro s) (micro (s.withBerr b)) := by
  by_cases her : s.now.move = .isrI2cEr
  · obtain ⟨u, hu, hs⟩ := micro_isrI2cEr s her
    obtain ⟨v, hv, ht⟩ := micro_isrI2cEr (s.withBerr b) her
    rw [hu, hv]
    exact hs.trans ht.symm
  · simp only [micro, State.withBerr_now, State.enabled_withBerr s b her]
    split
    · exact act_agreeButBerr s b _
    · exact agreeButBerr_withBerr (.next s) b

theorem State.takeChoice_withBerr : (s.withBerr b).takeChoice = s.takeChoice.withBerr b := by
  simp only [State.takeChoice, State.withBerr_sched]
  cases s.sched <;> rfl

theorem State.accept_withBerr : (s.withBerr b).accept = s.accept.withBerr b := by
  simp only [State.accept, State.withBerr_ite]
  rfl

theorem step_agreeButBerr : AgreeButBerr (step s) (step (s.withBerr b)) := by
  have hfetch : (s.takeChoice.withBerr b).fetch = s.takeChoice.fetch := rfl
  simp only [step, State.withBerr_cfg, State.takeChoice_withBerr, hfetch]
  split
  · rfl
  split
  · rw [State.accept_withBerr, exec_withBerr]
    exact agreeButBerr_withBerr _ b
  · exact micro_agreeButBerr _ b

end

/-- Settles O56: what a step does but for BERR does not depend on BERR. -/
theorem busErrorChangesNothing : Obligations.BusErrorChangesNothing := step_agreeButBerr

end Sys2Proof.Machine

/-!
PROOFS. Enabling (O52): each move's condition as the rules give it, and the step of a turn, taken or held. The one-step
statements below go through `step_of_mayMove` and `step_of_not_mayMove`.
-/

namespace Sys2Proof.Machine

/-! ## Where the bus stands, and the flags -/

theorem Bus.inData_iff {b : Bus} {d : Dir} : b.inData d = true ↔ ∃ a i n, b = .Data a d i n := by
  cases b <;> simp [Bus.inData]

theorem Bus.inAddr_iff {b : Bus} : b.inAddr = true ↔ ∃ a d n, b = .Addr a d n := by
  cases b <;> simp [Bus.inAddr]

theorem Bus.betweenChunks_iff {b : Bus} : b.betweenChunks = true ↔ b = .Idle ∨ b = .Held := by
  cases b <;> simp [Bus.betweenChunks]

theorem I2cp.ready_iff {c : I2cp} : c.ready = true ↔ c.peActive = true ∧ c.stalled = false := by
  simp [I2cp.ready]

theorem I2cp.atByteBoundary_iff {c : I2cp} :
    c.atByteBoundary = true ↔ c.bus = .Idle ∨ c.bus = .Held ∨ (∃ a i n, c.bus = .Data a .W i n ∧ c.txe = true) ∨
      ∃ a i n, c.bus = .Data a .R i n ∧ c.rxne = true := by
  simp only [I2cp.atByteBoundary, Bool.or_eq_true, Bool.and_eq_true, Bus.betweenChunks_iff, Bus.inData_iff,
    exists_and_right, or_assoc]

theorem Dma.signals_iff {c : Dma} : c.signals = true ↔ c.tcif = true ∨ c.teif = true := by
  simp [Dma.signals]

theorem Events.any_iff {e : Events} : e.any = true ↔ e ≠ ⟨false, false, false⟩ := by
  obtain ⟨outRx, inDone, ctrl⟩ := e
  cases outRx <;> cases inDone <;> cases ctrl <;> decide

theorem Pending.any_iff {p : Pending} : p.any = true ↔ p ≠ ⟨false, false, false⟩ := by
  obtain ⟨poll, recvResume, sendResume⟩ := p
  cases poll <;> cases recvResume <;> cases sendResume <;> decide

/-! ## The conditions of the Shell, the timer and the servicing task -/

section
variable {s : State}

theorem State.shellEnabled_iff : s.shellEnabled = true ↔ MayMove s .shell := by
  unfold State.shellEnabled MayMove
  cases s.phase with
  | IDLE => cases s.sh.pos <;> simp [Option.isSome_iff_ne_none]
  | CONFIG => simp [Option.isSome_iff_ne_none]
  | RST_WAIT => simp
  | _ => simp

theorem State.timeoutEnabled_iff : s.timeoutEnabled = true ↔ MayMove s .timer := by
  unfold State.timeoutEnabled MayMove TimeoutMayFire
  cases s.cfg.timeoutModel <;> simp [progressMoves, and_assoc]

theorem State.eventReady_outRx_iff :
    s.eventReady .outRx = true ↔ ∀ p, s.usb.epOut = .Full p → s.ins.count + p.length ≤ s.cfg.capIn := by
  unfold State.eventReady
  cases s.usb.epOut <;> simp [ByteStream.fits]

theorem State.readyEvents_ne_nil_iff :
    s.readyEvents ≠ [] ↔ s.usb.events.inDone = true ∨ s.usb.events.ctrl = true ∨
      (s.usb.events.outRx = true ∧ s.eventReady .outRx = true) := by
  have hin : s.eventReady .inDone = true := rfl
  have hctrl : s.eventReady .ctrl = true := rfl
  unfold State.readyEvents Events.toList
  cases s.usb.events.outRx <;> cases s.usb.events.inDone <;> cases s.usb.events.ctrl <;> simp [hin, hctrl]

theorem State.svcEnabled_iff : s.svcEnabled = true ↔ MayMove s .usbSvc := by
  unfold State.svcEnabled MayMove
  cases s.usb.taken.poll with
  | true =>
    have hnone : s.usb.events.any = false ↔ s.usb.events = ⟨false, false, false⟩ := by
      rw [← Bool.not_eq_true, Events.any_iff, not_not]
    simp [hnone, State.readyEvents_ne_nil_iff, State.eventReady_outRx_iff]
  | false => simp [Pending.any_iff]

/-- A move is enabled exactly under the condition its rule gives. -/
theorem State.enabled_iff {m : Move} : s.enabled m = true ↔ MayMove s m := by
  cases m with
  | shell => exact State.shellEnabled_iff
  | timer => exact State.timeoutEnabled_iff
  | usbSvc => exact State.svcEnabled_iff
  | isrI2cEv | isrI2cEr =>
    simp [State.enabled, State.hwEnabled, State.pendingIrq, State.condition, Irqen.get, MayMove]
  | isrDmaTx | isrDmaRx | isrUsb =>
    simp [State.enabled, State.hwEnabled, State.pendingIrq, State.condition, Irqen.get, MayMove, Dma.signals_iff,
      Events.any_iff]
  | pStart | pAddr | pWbyte | pRbyte | pStop =>
    simp [State.enabled, State.hwEnabled, MayMove, I2cp.ready_iff, Bus.inAddr_iff, Bus.inData_iff,
      Bus.betweenChunks_iff, I2cp.atByteBoundary_iff, and_assoc]
  | pDisable | pNoise | pStall | hostCtrl => simp [State.enabled, State.hwEnabled, MayMove]
  | dmaTx | dmaRx => simp [State.enabled, State.hwEnabled, MayMove, Bus.inData_iff, and_assoc]
  | hostOut => cases h : s.host.tx <;> simp [State.enabled, State.hwEnabled, MayMove, h]
  | hostIn => cases h : s.usb.epIn <;> simp [State.enabled, State.hwEnabled, MayMove, h]
  | client => simp [State.enabled, State.hwEnabled, MayMove, Option.isSome_iff_ne_none]

/-! ## The step of a turn -/

variable {m : Move} {d : Byte} {rest : List Choice}

theorem State.enabled_chosen (s : State) (m : Move) (d : Byte) (rest : List Choice) :
    (s.chosen m d rest).enabled m = s.enabled m := by
  cases m <;> rfl

/-- An agent that may move, and is at no instruction, takes its step. -/
theorem step_of_mayMove (h : Turn s m d rest) (hf : (s.chosen m d rest).fetch = none) (hm : MayMove s m) :
    step s = act m (s.chosen m d rest) := by
  rw [step_turn_micro h hf, micro, if_pos]
  · rfl
  · rw [State.chosen_now, State.enabled_chosen]
    exact State.enabled_iff.mpr hm

/-- The Shell's instructions stand where it may move. -/
theorem State.shellInstr_none_of_not_mayMove (hm : ¬ MayMove s .shell) : s.shellInstr = none := by
  unfold State.shellInstr
  unfold MayMove at hm
  cases hp : s.phase with
  | IDLE =>
    rw [hp] at hm
    rw [if_neg]
    intro hpos
    simp [hpos] at hm
  | CONFIG => simpa [hp] using hm
  | RST_DIS => simp [hp] at hm
  | _ => rfl

/-- An agent that may not move is at no instruction, but for an address byte that the peripheral cannot put out. -/
theorem State.fetch_none_of_not_mayMove (hm : ¬ MayMove s m) (hne : m ≠ .pAddr) : (s.chosen m d rest).fetch = none := by
  cases m with
  | shell => exact State.shellInstr_none_of_not_mayMove (s := s.chosen .shell d rest) hm
  | client =>
    have hclient : s.client = none := by simpa [MayMove] using hm
    simp [State.fetch, hclient]
  | pAddr => exact absurd rfl hne
  | _ => rfl

/-- An address byte is put out by a peripheral that is ready only (R208). -/
theorem putAddress_not_ready (a : Addr7) (dir : Dir) (hready : s.i2c.ready = false) : putAddress a dir s = .next s := by
  unfold putAddress
  split <;> simp [hready]

/-- The instruction of an address byte puts it out (R171, R208). -/
theorem exec_decodeWire_wireByte (a : Addr7) (dir : Dir) (s : State) :
    exec (decodeWire (wireByte a dir)) s = putAddress a dir s := by
  rw [decodeWire_wireByte]
  cases dir <;> rfl

/-- An agent that may not move holds (R17, R445, log 3). -/
theorem step_of_not_mayMove (h : Turn s m d rest) (hm : ¬ MayMove s m) : step s = .next (s.chosen m d rest) := by
  have hold (hf : (s.chosen m d rest).fetch = none) : step s = .next (s.chosen m d rest) := by
    rw [step_turn_micro h hf, micro, if_neg]
    rw [State.chosen_now, State.enabled_chosen]
    exact fun hen => hm (State.enabled_iff.mp hen)
  by_cases hne : m = .pAddr
  · subst hne
    cases hbus : s.i2c.bus with
    | Addr a dir n =>
      have hready : s.i2c.ready = false := by
        refine Bool.eq_false_iff.mpr fun hr => hm ⟨⟨a, dir, n, hbus⟩, I2cp.ready_iff.mp hr⟩
      have hf : (s.chosen .pAddr d rest).fetch = some (decodeWire (wireByte a dir)) := by
        simp [State.fetch, State.wireInstr, hbus]
      rw [step_turn_instr h hf, exec_decodeWire_wireByte, State.accept_of_ne (by simp)]
      exact putAddress_not_ready a dir hready
    | _ => exact hold (by simp [State.fetch, State.wireInstr, hbus])
  · exact hold (State.fetch_none_of_not_mayMove hm hne)

end

/-- Settles O52, move by move; an agent that may not move is at no instruction that does anything. -/
theorem enabledExactlyWhereRulesSay : Obligations.EnabledExactlyWhereRulesSay :=
  fun _ _ _ _ => ⟨State.enabled_iff, step_of_not_mayMove⟩

end Sys2Proof.Machine

/-!
PROOFS. The peripheral, the bus and the channels, one step each (O24, O31-O36, O53), and the two internal requests (O21,
O22).
-/

namespace Sys2Proof.Machine

/-! ## CHUNK and SOFT_RESET (R200, R201, R221) -/

theorem State.fromOutside_eq_false {s : State} (h : s.now.move ≠ .client) : s.fromOutside = false := by
  simpa [State.fromOutside] using h

/-- A pointer inside the data memory is its own value (R274, log 6). -/
theorem ptr_of_lt {p : Params} {a : Nat} (h : a < memTop p) : ptr p a = a := Nat.mod_eq_of_lt h

/-- A chunk of a legal length that the engine issues, with none in flight, takes its CONFIG step (R200, R201). -/
theorem exec_chunk_config {addr : Addr7} {dir : Dir} {buf n : Nat} {cont : Bool} {s : State}
    (hmove : s.now.move ≠ .client) (hn : 1 ≤ n) (hmax : n ≤ 255) (hmem : buf + n ≤ memTop s.cfg)
    (hphase : s.phase = .IDLE ∨ s.phase = .CONFIG) :
    exec (.chunk addr dir buf n cont) s = .next (configStep addr dir buf n cont s) := by
  have hbuf : bufferBad s.cfg buf n = false := by simpa [bufferBad] using hmem
  have hfree : ¬ (s.phase ≠ .IDLE ∧ s.phase ≠ .CONFIG) := by tauto
  simp only [exec, execChunk, State.fromOutside_eq_false hmove, hbuf, if_neg hfree, Bool.false_eq_true, if_false]
  rw [if_neg (by omega), if_neg (by unfold Config.chunkMax; omega)]

/-- Settles O21: CHUNK passes its checks, and CONFIG writes the record of the direction's channel. -/
theorem chunkConfigures : Obligations.ChunkConfigures := by
  intro addr dir buf n cont s hmove hn hmax hmem hphase
  rw [exec_chunk_config hmove hn hmax hmem hphase, configStep, ptr_of_lt (by omega)]
  cases dir <;> rfl

/-- Settles O22: SOFT_RESET has no check but the client's. -/
theorem softResetDisables : Obligations.SoftResetDisables := by
  intro s hmove
  simp only [exec, execSoftReset, State.fromOutside_eq_false hmove]
  rfl

/-! ## Draws (R172, log 2) -/

theorem State.drawAck_ack {s : State} (h : s.now.draw.getLsbD 0 = false) : s.drawAck = .ACK := by
  rw [State.drawAck, h]
  rfl

theorem State.drawAck_nack {s : State} (h : s.now.draw.getLsbD 0 = true) : s.drawAck = .NACK := by
  rw [State.drawAck, h]
  rfl

/-! ## The address byte (R208) -/

/-- The address byte goes out where the bus is at it and the peripheral runs unstalled. -/
theorem putAddress_at {a : Addr7} {d : Dir} {n : Nat} {s : State} (hbus : s.i2c.bus = .Addr a d n)
    (hact : s.i2c.peActive = true) (hstall : s.i2c.stalled = false) : putAddress a d s = .next (pAddrStep a d n s) := by
  have hready : s.i2c.ready = true := I2cp.ready_iff.mpr ⟨hact, hstall⟩
  simp [putAddress, hbus, hready]

theorem pAddrStep_ack {a : Addr7} {d : Dir} {n : Nat} {s : State} (hdraw : s.now.draw.getLsbD 0 = false) :
    pAddrStep a d n s = { s with trace := s.trace ++ [.ADDR a d .ACK], i2c := { s.i2c with bus := .Data a d 0 n } } := by
  rw [pAddrStep, State.drawAck_ack hdraw]
  rfl

theorem pAddrStep_nack {a : Addr7} {d : Dir} {n : Nat} {s : State} (hdraw : s.now.draw.getLsbD 0 = true) :
    pAddrStep a d n s = { s with
      trace := s.trace ++ [.ADDR a d .NACK] ++ [.STOP]
      i2c := { s.i2c with nackf := true, stopf := true, bus := .Idle } } := by
  rw [pAddrStep, State.drawAck_nack hdraw]
  rfl

/-- Settles O24: the byte is out, and the draw answers it. -/
theorem addressByteAnswered : Obligations.AddressByteAnswered := by
  intro a d n s
  have hexec : exec (match d with | .W => .addrW a | .R => .addrR a) s = putAddress a d s := by cases d <;> rfl
  intro hbus hact hstall
  rw [putAddress_at hbus hact hstall] at hexec
  exact ⟨fun hdraw => hexec.trans (congrArg _ (pAddrStep_ack hdraw)),
    fun hdraw => hexec.trans (congrArg _ (pAddrStep_nack hdraw))⟩

/-! ## The peripheral's other steps (R207, R209, R210, R213, R223, R224) -/

/-- Settles O31: a pending STOP keeps the move from being enabled. -/
theorem startCondition : Obligations.StartCondition := by
  intro s d rest h hact hstall hstart
  refine ⟨fun hstop hbus => ?_, fun hstop => ?_⟩
  · exact step_of_mayMove h rfl ⟨hstart, hstop, hact, hstall, hbus⟩
  · exact step_of_not_mayMove h fun ⟨_, hno, _⟩ => nomatch hstop.symm.trans hno

/-- Settles O32: the draw answers the byte; a TXDR that is empty keeps the move from being enabled. -/
theorem writtenByte : Obligations.WrittenByte := by
  intro s a i n d rest h hact hstall hbus
  have hstep (htxe : s.i2c.txe = false) : step s = .next (pWbyteStep (s.chosen .pWbyte d rest)) :=
    step_of_mayMove h rfl ⟨⟨a, i, n, hbus⟩, htxe, hact, hstall⟩
  refine ⟨fun htxe hdraw => ?_, fun htxe hdraw => ?_, fun htxe => ?_⟩
  · have hnack : (s.chosen .pWbyte d rest).drawAck = .NACK := State.drawAck_nack hdraw
    simp [hstep htxe, pWbyteStep, hbus, hnack, State.nackStop, State.emit]
  · have hack : (s.chosen .pWbyte d rest).drawAck = .ACK := State.drawAck_ack hdraw
    simp [hstep htxe, pWbyteStep, hbus, hack, State.emit, nextData]
  · exact step_of_not_mayMove h fun ⟨_, hno, _⟩ => nomatch htxe.symm.trans hno

/-- Settles O33: a full RXDR keeps the move from being enabled. -/
theorem readByte : Obligations.ReadByte := by
  intro s a i n d rest h hact hstall hbus
  refine ⟨fun hrxne => ?_, fun hrxne => ?_⟩
  · have hstep : step s = .next (pRbyteStep (s.chosen .pRbyte d rest)) :=
      step_of_mayMove h rfl ⟨⟨a, i, n, hbus⟩, hrxne, hact, hstall⟩
    simp [hstep, pRbyteStep, hbus, State.emit, nextData, readAck]
  · exact step_of_not_mayMove h fun ⟨_, hno, _⟩ => nomatch hrxne.symm.trans hno

/-- Settles O34: the step by whether the bus is idle; a byte in TXDR keeps the move from being enabled. -/
theorem stopCondition : Obligations.StopCondition := by
  intro s d rest h hact hstall hstop
  refine ⟨fun hbus => ?_, fun hbus => ?_, fun a i n hbus htxe => ?_⟩
  · have hstep : step s = .next (pStopStep (s.chosen .pStop d rest)) :=
      step_of_mayMove h rfl ⟨hstop, hact, hstall, .inl hbus⟩
    simp [hstep, pStopStep, hbus]
  · have hstep : step s = .next (pStopStep (s.chosen .pStop d rest)) :=
      step_of_mayMove h rfl ⟨hstop, hact, hstall, .inr hbus⟩
    have hidle : s.i2c.bus ≠ .Idle := by
      obtain hb | ⟨_, _, _, hb, -⟩ | ⟨_, _, _, hb, -⟩ := hbus <;> simp [hb]
    simp [hstep, pStopStep, hidle, State.emit]
  · refine step_of_not_mayMove h fun ⟨_, _, _, hmay⟩ => ?_
    simp [hbus, htxe] at hmay

/-- Settles O53: each is an enabled move's step. -/
theorem disturbanceSteps : Obligations.DisturbanceSteps := fun _ _ _ hact =>
  ⟨fun h => step_of_mayMove h rfl hact, fun h hstall => step_of_mayMove h rfl ⟨hact, hstall⟩⟩

/-! ## The channels (R211, R212) -/

/-- A channel that moves a byte counts on, and sets TCIF at the last one (R62, R211, R212). -/
theorem Dma.advance_eq (p : Params) (c : Dma) :
    c.advance p = { c with
      cmar := (c.cmar + 1) % memTop p, cndtr := c.cndtr - 1, tcif := if c.cndtr = 1 then true else c.tcif } := by
  have hlast : (c.cndtr - 1 == 0) = decide (c.cndtr = 1) := decide_eq_decide.mpr (by bv_omega)
  rw [Dma.advance, hlast, ptr]
  simp [Bool.or_comm]

/-- Settles O35: the draw says whether the channel errs. -/
theorem dmaTxMovesOneByte : Obligations.DmaTxMovesOneByte := by
  intro s a i n d rest h hen hcnt htxe hbus hcmar
  have hstep : step s = .next (dmaTxStep (s.chosen .dmaTx d rest)) :=
    step_of_mayMove h rfl ⟨hen, hcnt, htxe, a, i, n, hbus⟩
  refine ⟨fun hdraw => ?_, fun hdraw => ?_⟩
  · have hbit : (s.chosen .dmaTx d rest).drawBit = true := hdraw
    simp [hstep, dmaTxStep, hbit, Dma.error]
  · have hbit : (s.chosen .dmaTx d rest).drawBit = false := hdraw
    simp [hstep, dmaTxStep, hbit, ptr_of_lt hcmar, Dma.advance_eq]

/-- Settles O36: the draw says whether the channel errs. -/
theorem dmaRxMovesOneByte : Obligations.DmaRxMovesOneByte := by
  intro s d rest h hen hcnt hrxne hcmar
  have hstep : step s = .next (dmaRxStep (s.chosen .dmaRx d rest)) := step_of_mayMove h rfl ⟨hen, hcnt, hrxne⟩
  refine ⟨fun hdraw => ?_, fun hdraw => ?_⟩
  · have hbit : (s.chosen .dmaRx d rest).drawBit = true := hdraw
    simp [hstep, dmaRxStep, hbit, Dma.error]
  · have hbit : (s.chosen .dmaRx d rest).drawBit = false := hdraw
    refine ⟨_, hstep, ?_, ?_, fun x hx => ?_⟩
    · simp [dmaRxStep, hbit, Dma.advance_eq]
    · simp [dmaRxStep, hbit, ptr_of_lt hcmar]
    · simp [dmaRxStep, hbit, ptr_of_lt hcmar, hx]

end Sys2Proof.Machine

/-!
PROOFS. The sequencer, one step each (O25-O28), and the whole soft reset (O23).
-/

namespace Sys2Proof.Machine

/-! ## The Shell's turn in each phase -/

/-- The phases in which the sequencer has a step of its own that nothing holds back. -/
def Phase.runs : Phase → Bool
  | .IDLE | .CONFIG | .WAIT | .RST_DIS | .RST_WAIT => false
  | _ => true

section
variable {s : State} {d : Byte} {rest : List Choice} (h : Turn s .shell d rest)
include h

/-- In a chunk the Shell's turn is the sequencer's step, where it may move and is at no instruction. -/
theorem step_sequencer (hinstr : s.shellInstr = none) (hidle : s.phase ≠ .IDLE) (hm : MayMove s .shell) :
    step s = sequencerStep (s.chosen .shell d rest) := by
  rw [step_of_mayMove h hinstr hm]
  exact if_neg hidle

theorem step_runs (hp : s.phase.runs = true) : step s = sequencerStep (s.chosen .shell d rest) := by
  refine step_sequencer h ?_ ?_ ?_
  · unfold State.shellInstr
    cases hph : s.phase <;> simp_all [Phase.runs]
  · intro hidle
    simp [hidle, Phase.runs] at hp
  · unfold MayMove
    cases hph : s.phase <;> simp_all [Phase.runs]

theorem step_arm {t : Txn} (hp : s.phase = .ARM) (ht : s.txn = some t) :
    step s = .next (armStep (s.chosen .shell d rest) t) := by
  rw [step_runs h (by rw [hp]; rfl)]
  simp [sequencerStep, hp, State.withTxn, ht]

theorem step_drain (hp : s.phase = .DRAIN) : step s = .next (drainStep (s.chosen .shell d rest)) := by
  rw [step_runs h (by rw [hp]; rfl)]
  simp [sequencerStep, hp]

theorem step_endma {t : Txn} (hp : s.phase = .ENDMA) (ht : s.txn = some t) :
    step s = .next (endmaStep (s.chosen .shell d rest) t) := by
  rw [step_runs h (by rw [hp]; rfl)]
  simp [sequencerStep, hp, State.withTxn, ht]

theorem step_start (hp : s.phase = .START) : step s = .next (startStep (s.chosen .shell d rest)) := by
  rw [step_runs h (by rw [hp]; rfl)]
  simp [sequencerStep, hp]

theorem step_waitTake (hp : s.phase = .WAIT) (hsem : s.sem = true) :
    step s = .next (waitTakeStep (s.chosen .shell d rest)) := by
  rw [step_sequencer h (by simp [State.shellInstr, hp]) (by simp [hp]) (by simp [MayMove, hp, hsem])]
  simp [sequencerStep, hp]

theorem step_eval {t : Txn} (hp : s.phase = .EVAL) (ht : s.txn = some t) :
    step s = .next (evalStep (s.chosen .shell d rest) t) := by
  rw [step_runs h (by rw [hp]; rfl)]
  simp [sequencerStep, hp, State.withTxn, ht]

theorem step_stopreq {t : Txn} (hp : s.phase = .STOPREQ) (ht : s.txn = some t) :
    step s = .next (stopreqStep (s.chosen .shell d rest) t) := by
  rw [step_runs h (by rw [hp]; rfl)]
  simp [sequencerStep, hp, State.withTxn, ht]

theorem step_dmaoff {t : Txn} (hp : s.phase = .DMAOFF) (ht : s.txn = some t) :
    step s = .next (dmaoffStep (s.chosen .shell d rest) t) := by
  rw [step_runs h (by rw [hp]; rfl)]
  simp [sequencerStep, hp, State.withTxn, ht]

/-- The settle of a failed chunk issues SOFT_RESET, its first step RST_DIS (R219, R221). -/
theorem step_rstDis (hp : s.phase = .RST_DIS) : step s = .next (rstDisStep (s.chosen .shell d rest)) := by
  have hf : (s.chosen .shell d rest).fetch = some .softReset := by simp [State.fetch, State.shellInstr, hp]
  rw [step_turn_instr h hf, State.accept_of_ne (by simp)]
  rfl

theorem step_rstWait (hp : s.phase = .RST_WAIT) (hact : s.i2c.peActive = false) :
    step s = .next (rstWaitStep (s.chosen .shell d rest)) := by
  rw [step_sequencer h (by simp [State.shellInstr, hp]) (by simp [hp]) (by simp [MayMove, hp, hact])]
  simp [sequencerStep, hp]

theorem step_rstEn (hp : s.phase = .RST_EN) : step s = .next (rstEnStep (s.chosen .shell d rest)) := by
  rw [step_runs h (by rw [hp]; rfl)]
  simp [sequencerStep, hp]

theorem step_rearmStep (hp : s.phase = .REARM) : step s = .next (rearmStep (s.chosen .shell d rest)) := by
  rw [step_runs h (by rw [hp]; rfl)]
  simp [sequencerStep, hp]

end

/-! ## From ARM to WAIT's end (R202-R206) -/

/-- Settles O25: each phase's own step, for the channel of the record's direction. -/
theorem openingSteps : Obligations.OpeningSteps := by
  intro s t d rest h ht
  refine ⟨fun hp hdir => ?_, fun hp hdir => ?_, step_drain h, fun hp hdir => ?_, fun hp hdir => ?_, step_start h⟩
  · rw [step_arm h hp ht, armStep, hdir]; rfl
  · rw [step_arm h hp ht, armStep, hdir]; rfl
  · rw [step_endma h hp ht, endmaStep, hdir]; rfl
  · rw [step_endma h hp ht, endmaStep, hdir]; rfl

/-- Settles O26: the take needs the signal, and without it only the timeout moves. -/
theorem waitEndsBySignalOrTimeout : Obligations.WaitEndsBySignalOrTimeout := by
  intro s d rest hp
  refine ⟨fun h => step_waitTake h hp, fun h hsem => ?_, fun h => step_of_mayMove h rfl, fun h => step_of_not_mayMove h⟩
  exact step_of_not_mayMove h (by simp [MayMove, hp, hsem])

/-! ## EVAL, STOPREQ and DMAOFF (R215-R218) -/

section
variable {s : State} {t : Txn}

/-- The result of a chunk that nothing failed is its length (R215). -/
theorem eval_success (htime : s.eng.timedOut = false) (hnack : s.i2c.nackf = false)
    (htcif : (s.chan t.dir).tcif = true) (hteif : (s.chan t.dir).teif = false) :
    evalRes s t = t.n ∧ evalCause s t = .NONE := by
  simp [evalRes, evalCause, htime, hnack, htcif, hteif]

theorem eval_timeout (htime : s.eng.timedOut = true) : evalRes s t = 0 ∧ evalCause s t = .TIMEOUT := by
  simp [evalRes, evalCause, htime]

theorem eval_nack (htime : s.eng.timedOut = false) (hnack : s.i2c.nackf = true) :
    evalRes s t = 0 ∧ evalCause s t = .NACK := by
  simp [evalRes, evalCause, htime, hnack]

theorem eval_dma (htime : s.eng.timedOut = false) (hnack : s.i2c.nackf = false)
    (hdma : (s.chan t.dir).tcif = false ∨ (s.chan t.dir).teif = true) :
    evalRes s t = 0 ∧ evalCause s t = .DMA := by
  simp [evalRes, evalCause, htime, hnack, hdma]

end

/-- Settles O27: the result and the cause by what failed first, and the flags by NACKF. -/
theorem evaluationOutcome : Obligations.EvaluationOutcome := by
  intro s t d rest h hp ht
  have hchan : (s.chosen .shell d rest).chan t.dir = s.chan t.dir := by cases t.dir <;> rfl
  refine ⟨_, step_eval h hp ht, rfl, rfl, (evalRes_zero_or_n _ t).symm, ?_, ?_, ?_, ?_, ?_, ?_⟩
  · exact fun htime hnack htcif hteif => eval_success htime hnack (hchan ▸ htcif) (hchan ▸ hteif)
  · exact fun htime => eval_timeout htime
  · exact fun htime hnack => eval_nack htime hnack
  · exact fun htime hnack hdma => eval_dma htime hnack (hchan ▸ hdma)
  · exact fun hnack => if_pos hnack
  · exact fun hnack => if_neg (by simpa using hnack)

/-- Settles O28: each phase's own step, for the channel of the record's direction. -/
theorem settleSteps : Obligations.SettleSteps := by
  intro s t d rest h ht
  refine ⟨fun hp htime hcont => ?_, fun hp hno => ?_, fun hp hdir => ?_, fun hp hdir => ?_⟩
  · rw [step_stopreq h hp ht, stopreqStep, if_pos ⟨htime, hcont⟩]; rfl
  · rw [step_stopreq h hp ht, stopreqStep, if_neg]
    · rfl
    · rintro ⟨htime, hcont⟩
      simp_all
  · rw [step_dmaoff h hp ht, dmaoffStep, hdir]; rfl
  · rw [step_dmaoff h hp ht, dmaoffStep, hdir]; rfl

/-! ## Runs of several steps -/

/-- A run by its first step. -/
theorem steps_next {s s' t : State} {k : Nat} (h : step s = .next s') (hk : steps k s' = .next t) :
    steps (k + 1) s = .next t := by
  simp only [steps, h, hk]

/-- A run in two parts. -/
theorem steps_append {s s' t : State} {j k : Nat} (h : steps j s = .next s') (hk : steps k s' = .next t) :
    steps (j + k) s = .next t := by
  induction j generalizing s with
  | zero =>
    obtain rfl := Host.Outcome.next.inj h
    rwa [Nat.zero_add]
  | succ j ih =>
    rw [Nat.add_right_comm]
    simp only [steps] at h ⊢
    cases hs : step s with
    | next u => rw [hs] at h; exact ih h
    | fault f => rw [hs] at h; cases h
    | refused r => rw [hs] at h; cases h

/-! ## The soft reset (R221, R222) -/

/-- The disable brings the peripheral to its state after initialisation, but for the enable bits, the control fields, the
data registers and a stall that outlasts it; a bus that was not idle is released (R222). -/
theorem pDisableStep_eq (s : State) :
    pDisableStep s = { s with
      trace := s.trace ++ (if s.i2c.bus = .Idle then [] else [.RELEASE])
      i2c := { I2cp.reset with
        pe := s.i2c.pe, peActive := false, sadd := s.i2c.sadd, rdWrn := s.i2c.rdWrn, nbytes := s.i2c.nbytes
        txdr := s.i2c.txdr, rxdr := s.i2c.rxdr, stalled := s.i2c.stalled && s.drawBit } } := by
  by_cases hbus : s.i2c.bus = .Idle <;> simp [pDisableStep, hbus, I2cp.reset]

/-- From RST_WAIT: the disable takes effect, and the Shell enables the peripheral again (R221, R222). -/
theorem steps_disable_enable {s : State} {d2 d3 d4 : Byte} {rest : List Choice} (hcfg : configRefusal s.cfg = none)
    (hsched : s.sched = ⟨.pDisable, d2⟩ :: ⟨.shell, d3⟩ :: ⟨.shell, d4⟩ :: rest) (hp : s.phase = .RST_WAIT)
    (hpe : s.i2c.pe = false) (hact : s.i2c.peActive = true) :
    steps 3 s = .next { s.chosen .shell d4 rest with
      phase := .REARM
      trace := s.trace ++ (if s.i2c.bus = .Idle then [] else [.RELEASE])
      i2c := { I2cp.reset with
        sadd := s.i2c.sadd, rdWrn := s.i2c.rdWrn, nbytes := s.i2c.nbytes, txdr := s.i2c.txdr, rxdr := s.i2c.rxdr
        stalled := s.i2c.stalled && d2.getLsbD 0 } } := by
  have hdisable := step_of_mayMove ⟨hsched, hcfg⟩ rfl ⟨hpe, hact⟩
  rw [act, pDisableStep_eq] at hdisable
  exact steps_next hdisable (steps_next (step_rstWait ⟨rfl, hcfg⟩ hp rfl) (steps_next (step_rstEn ⟨rfl, hcfg⟩ rfl) rfl))

/-- Settles O23: the Shell holds in RST_WAIT as long as the disable has not taken effect. -/
theorem softResetRestoresPeripheral : Obligations.SoftResetRestoresPeripheral := by
  intro s d0 d1 d2 d3 d4 rest hcfg hp hact hsched
  have hdis := step_rstDis ⟨hsched, hcfg⟩ hp
  have hhold : step (rstDisStep (s.chosen .shell d0 (⟨.shell, d1⟩ :: ⟨.pDisable, d2⟩ :: ⟨.shell, d3⟩ :: ⟨.shell, d4⟩ :: rest)))
      = .next (State.chosen (rstDisStep s) .shell d1 (⟨.pDisable, d2⟩ :: ⟨.shell, d3⟩ :: ⟨.shell, d4⟩ :: rest)) := by
    refine step_of_not_mayMove ⟨rfl, hcfg⟩ fun hno => ?_
    have hoff : s.i2c.peActive = false := hno
    exact nomatch hact.symm.trans hoff
  exact ⟨steps_next hdis (steps_next hhold rfl),
    steps_next hdis (steps_next hhold (steps_disable_enable hcfg rfl rfl rfl hact))⟩

end Sys2Proof.Machine

/-!
PROOFS. REARM returns the chunk's result to its transfer, and the call's to the Shell (O29): what each part of the caller's
bookkeeping does in each case, then the step itself.
-/

namespace Sys2Proof.Machine

/-! ## A chunk, a transfer and a call return (R260, R263, R265-R270) -/

section
variable {s : State} {c : Call} {n : Nat}

/-- A full chunk that is not the transfer's last is followed by the next one (R260, R263). -/
theorem State.returnChunk_more (hres : s.eng.res.toNat = n) (hmore : c.off + n < c.cur.len) :
    s.returnChunk c n = { s with
      eng := { s.eng with total := s.eng.total + n }, call := some { c with off := c.off + n }, phase := .CONFIG } := by
  rw [State.returnChunk, hres, if_neg (Nat.lt_irrefl n), if_pos hmore]

/-- A full last chunk ends its transfer (R260, R263). -/
theorem State.returnChunk_last (hres : s.eng.res.toNat = n) (hlast : c.off + n = c.cur.len) :
    s.returnChunk c n = State.returnXfer { s with eng := { s.eng with total := s.eng.total + n } } c := by
  rw [State.returnChunk, hres, if_neg (Nat.lt_irrefl n), if_neg (by omega)]

/-- A failed chunk ends its transfer with the total so far (R263). -/
theorem State.returnChunk_failed (hres : s.eng.res = 0) (hn : 1 ≤ n) : s.returnChunk c n = s.returnXfer c := by
  have hzero : s.eng.res.toNat = 0 := by rw [hres]; rfl
  rw [State.returnChunk, hzero, if_pos (by omega)]
  rfl

/-- A full transfer is followed by the next phase (R267, R268). -/
theorem State.returnXfer_next {x : Xfer} (htotal : s.eng.total = c.cur.len) (hnext : c.next = some x) :
    s.returnXfer c = s.beginXfer { c with cur := x, next := none } := by
  simp [State.returnXfer, htotal, hnext]

/-- A full transfer without a next phase ends its call with ok = 1. -/
theorem State.returnXfer_last (htotal : s.eng.total = c.cur.len) (hnext : c.next = none) :
    s.returnXfer c = s.returnCall c true := by
  simp [State.returnXfer, htotal, hnext]

/-- A shortfall ends the call with ok = 0, whatever was to come (R270). -/
theorem State.returnXfer_short (htotal : s.eng.total ≠ c.cur.len) : s.returnXfer c = s.returnCall c false := by
  simp [State.returnXfer, htotal]

/-- A call that succeeded writes no memory. -/
theorem State.returnCall_true_mem : (s.returnCall c true).mem = s.mem := by
  rw [State.returnCall, State.replyFor_mem]
  unfold State.spoilReadBuf
  split <;> rfl

/-- A call that returns writes its own read buffer at most (I8, log 17). -/
theorem State.returnCall_read (ok : Bool) {x : Nat} (hx : ∀ b len, c.readBuf = some (b, len) → x < b ∨ b + len ≤ x) :
    (s.returnCall c ok).mem.read x = s.mem.read x := by
  rw [State.returnCall, State.replyFor_mem]
  unfold State.spoilReadBuf
  split
  · rename_i b len hb
    split
    · rfl
    · exact State.read_havoc_outside _ _ _ _ (hx b len hb)
  · rfl

/-- The Shell replies as its call returned (R384-R387, R391); memory counts for a read that succeeded only. -/
theorem State.replyFor_replyIs {t : State} (r : Reply) (ok : Bool) (hsh : t.sh = s.sh) (hcfg : t.cfg = s.cfg)
    (hmem : ok = true → t.mem = s.mem) : ReplyIs s (t.replyFor r ok) r ok := by
  cases r with
  | silent => exact hsh
  | ok => cases ok <;> simp [State.replyFor, State.startReply, ReplyIs, hsh, Text.ok, Text.error, Text.crlf]
  | data n =>
    cases ok with
    | true => simp [State.replyFor, State.startReply, ReplyIs, hsh, hcfg, hmem rfl, Text.data, Text.crlf]
    | false => simp [State.replyFor, State.startReply, ReplyIs, hsh, Text.error, Text.crlf]

theorem State.returnCall_replyIs (ok : Bool) : ReplyIs s (s.returnCall c ok) c.reply ok := by
  apply State.replyFor_replyIs
  · cases c.readBuf <;> cases ok <;> rfl
  · cases c.readBuf <;> cases ok <;> rfl
  · rintro rfl
    cases c.readBuf <;> rfl

end

/-! ## The step (R220, R42) -/

section
variable {s : State}

/-- A result that is not 0 leaves the chunk's bytes as they are. -/
theorem State.spoilChunk_of_res_ne_zero (h : s.eng.res ≠ 0) : s.spoilChunk = s := by
  unfold State.spoilChunk
  split
  · exact if_neg fun hfail => h hfail.2
  · rfl

theorem rearmStep_of_res_ne_zero (h : s.eng.res ≠ 0) :
    rearmStep s = (s.settled s.mem s.free s.eng.total).chunkDone := by
  rw [rearmStep, State.spoilChunk_of_res_ne_zero (s := s.rearmSources.setPhase .IDLE) h]
  rfl

/-- A chunk executed outside any call ends with its record discarded; its bytes stay where its result is not 0. -/
theorem rearmStep_alone (hc : s.call = none) :
    ∃ m f, (s.eng.res ≠ 0 → m = s.mem) ∧ rearmStep s = s.settled m f s.eng.total := by
  by_cases hres : s.eng.res = 0
  · obtain ⟨m, f, h⟩ := rearmStep_settled s
    exact ⟨m, f, fun hne => absurd hres hne, h.trans (State.chunkDone_none (s := s.settled m f _) hc)⟩
  · exact ⟨s.mem, s.free, fun _ => rfl,
      (rearmStep_of_res_ne_zero hres).trans (State.chunkDone_none (s := s.settled _ _ _) hc)⟩

/-- What a chunk that is done leaves to its caller: the phase, the call, the registers, the reply and the read buffer. -/
theorem State.chunkDone_frame (s : State) :
    ∃ ph call eng sh mem free,
      s.chunkDone = { s with phase := ph, call := call, eng := eng, sh := sh, mem := mem, free := free } := by
  cases hc : s.call with
  | none => exact ⟨_, _, _, _, _, _, State.chunkDone_none hc⟩
  | some c =>
    rw [State.chunkDone_some hc]
    obtain ⟨-, -, h⟩ | ⟨x, -, -, h⟩ | ⟨ok, -, h⟩ := s.returnChunk_cases c c.dueLen
    · exact ⟨_, _, _, _, _, _, h⟩
    · exact ⟨_, _, _, _, _, _, h⟩
    · obtain ⟨m, f, sh, h'⟩ := State.returnCall_frame { s with eng := { s.eng with total := _ } } c ok
      exact ⟨_, _, _, _, _, _, h.trans h'⟩

/-- A chunk that is done writes its call's read buffer at most. -/
theorem State.chunkDone_read {x : Nat}
    (hx : ∀ c b len, s.call = some c → c.readBuf = some (b, len) → x < b ∨ b + len ≤ x) :
    s.chunkDone.mem.read x = s.mem.read x := by
  cases hc : s.call with
  | none => rw [State.chunkDone_none hc]
  | some c =>
    rw [State.chunkDone_some hc]
    obtain ⟨-, -, h⟩ | ⟨y, -, -, h⟩ | ⟨ok, -, h⟩ := s.returnChunk_cases c c.dueLen
    · rw [h]
    · rw [h]; rfl
    · rw [h]
      exact State.returnCall_read ok fun b len hb => hx c b len hc hb

theorem rearmStep_frame (s : State) :
    rearmStep s = { s with
      irqen := ⟨true, true, true, true, s.irqen.usb⟩, txn := none
      phase := (rearmStep s).phase, call := (rearmStep s).call, eng := (rearmStep s).eng, sh := (rearmStep s).sh
      mem := (rearmStep s).mem, free := (rearmStep s).free } := by
  obtain ⟨m, f, h⟩ := rearmStep_settled s
  obtain ⟨ph, call, eng, sh, mem, free, h'⟩ := (s.settled m f s.eng.total).chunkDone_frame
  rw [h, h']
  rfl

/-- REARM writes no byte but those that a failure leaves open (I8, log 17). -/
theorem rearmStep_read {x : Nat} (hx : ¬ FreeAfterFailure s x) : (rearmStep s).mem.read x = s.mem.read x := by
  have hcall : (rearmStep s).mem.read x = (s.rearmSources.setPhase .IDLE).spoilChunk.mem.read x := by
    refine State.chunkDone_read (s := (s.rearmSources.setPhase .IDLE).spoilChunk.discardTxn) fun c b len hc hb => ?_
    obtain ⟨m, f, h⟩ := (s.rearmSources.setPhase .IDLE).spoilChunk_frame
    have hsame : s.call = some c := by
      rw [h] at hc
      exact hc
    by_contra hno
    exact hx (.inr ⟨c, b, len, hsame, hb, by omega, by omega⟩)
  rw [hcall]
  refine State.spoilChunk_read _ x fun t ht hdir _ => ?_
  by_contra hno
  exact hx (.inl ⟨t, ht, hdir, by omega, by omega⟩)

end

/-! ## The cases of the call -/

section
variable {s : State} {c : Call} (hc : s.call = some c) (hin : c.off < c.cur.len) (htotal : s.eng.total = c.off)
include hc hin

/-- A full chunk of the call returns its length, and its bytes stay. -/
theorem rearmStep_full (hres : s.eng.res = BitVec.ofNat 8 c.dueLen) :
    s.eng.res.toNat = c.dueLen ∧ rearmStep s = (s.settled s.mem s.free s.eng.total).returnChunk c c.dueLen := by
  have hnat : s.eng.res.toNat = c.dueLen := by rw [hres, c.dueLen_toNat]
  have hpos := Call.dueLen_pos.mpr hin
  have hne : s.eng.res ≠ 0 := by
    intro h0
    have hzero : s.eng.res.toNat = 0 := by rw [h0]; rfl
    omega
  exact ⟨hnat, (rearmStep_of_res_ne_zero hne).trans (State.chunkDone_some (s := s.settled _ _ _) hc)⟩

include htotal

theorem rearmStep_more (hres : s.eng.res = BitVec.ofNat 8 c.dueLen) (hmore : c.off + c.dueLen < c.cur.len) :
    rearmStep s = { s.settled s.mem s.free (c.off + c.dueLen) with
      call := some { c with off := c.off + c.dueLen }, phase := .CONFIG } := by
  obtain ⟨hnat, h⟩ := rearmStep_full hc hin hres
  rw [h, State.returnChunk_more (s := s.settled _ _ _) hnat hmore, ← htotal]
  rfl

/-- A full last chunk completes its transfer. -/
theorem rearmStep_last (hres : s.eng.res = BitVec.ofNat 8 c.dueLen) (hlast : c.off + c.dueLen = c.cur.len) :
    rearmStep s = (s.settled s.mem s.free c.cur.len).returnXfer c := by
  obtain ⟨hnat, h⟩ := rearmStep_full hc hin hres
  rw [h, State.returnChunk_last (s := s.settled _ _ _) hnat hlast, ← hlast, ← htotal]
  rfl

/-- A full chunk leaves memory alone, whatever it is followed by. -/
theorem rearmStep_full_mem (hres : s.eng.res = BitVec.ofNat 8 c.dueLen) : (rearmStep s).mem = s.mem := by
  by_cases hmore : c.off + c.dueLen < c.cur.len
  · rw [rearmStep_more hc hin htotal hres hmore]
    rfl
  · have hlast : c.off + c.dueLen = c.cur.len := by
      unfold Call.dueLen at *
      omega
    rw [rearmStep_last hc hin htotal hres hlast]
    cases hnext : c.next with
    | some x => rw [State.returnXfer_next (s := s.settled _ _ _) rfl hnext]; rfl
    | none => rw [State.returnXfer_last (s := s.settled _ _ _) rfl hnext]; exact State.returnCall_true_mem

/-- A failed chunk ends the call with the total so far (R263, R270). -/
theorem rearmStep_failed (hres : s.eng.res = 0) :
    ∃ m f, rearmStep s = (s.settled m f c.off).returnCall c false := by
  obtain ⟨m, f, h⟩ := rearmStep_settled s
  refine ⟨m, f, ?_⟩
  rw [h, State.chunkDone_some (s := s.settled _ _ _) hc,
    State.returnChunk_failed (s := s.settled _ _ _) hres (Call.dueLen_pos.mpr hin),
    State.returnXfer_short (s := s.settled _ _ _) (show s.eng.total ≠ _ by omega), htotal]

end

/-- Settles O29: the step's frame and its bytes, then the case of no call and the five of a call. -/
theorem rearmReturnsToTransfer : Obligations.RearmReturnsToTransfer := by
  intro s d rest h hp
  refine ⟨_, step_rearmStep h hp, rearmStep_frame _, fun hres hc => ?_, fun x hx => rearmStep_read hx, fun hc => ?_, ?_⟩
  · obtain ⟨m, f, hmem, hr⟩ := rearmStep_alone (s := s.chosen .shell d rest) hc
    rw [hr]
    exact hmem hres
  · obtain ⟨m, f, -, hr⟩ := rearmStep_alone (s := s.chosen .shell d rest) hc
    rw [hr]
    exact ⟨rfl, hc, rfl, rfl⟩
  intro c n hc hn hin htotal
  replace hn : n = c.dueLen := hn
  subst hn
  refine ⟨fun hres => ?_, fun hres hmore => ?_, fun x hres hlast hnext => ?_, fun hres hlast hnext => ?_, fun hres => ?_⟩
  · exact rearmStep_full_mem (s := s.chosen .shell d rest) hc hin htotal hres
  · rw [rearmStep_more (s := s.chosen .shell d rest) hc hin htotal hres hmore]
    exact ⟨rfl, rfl, rfl, rfl⟩
  · rw [rearmStep_last (s := s.chosen .shell d rest) hc hin htotal hres hlast, State.returnXfer_next rfl hnext]
    exact ⟨rfl, rfl, rfl, rfl⟩
  · rw [rearmStep_last (s := s.chosen .shell d rest) hc hin htotal hres hlast, State.returnXfer_last rfl hnext]
    exact ⟨State.returnCall_call _ _ _, State.returnCall_phase _ _ _, State.returnCall_ok _ _ _, State.returnCall_replyIs true⟩
  · obtain ⟨m, f, hr⟩ := rearmStep_failed (s := s.chosen .shell d rest) hc hin htotal hres
    rw [hr]
    exact ⟨State.returnCall_call _ _ _, State.returnCall_phase _ _ _, State.returnCall_ok _ _ _, State.returnCall_replyIs false⟩

end Sys2Proof.Machine

/-!
PROOFS. Whole chunks along one schedule (O57, O58, O60): the opening to the address byte, the loop over the bytes, the settle.
-/

namespace Sys2Proof.Machine

/-! ## From ARM to the address byte (R202-R205, R207) -/

/-- The handler that completes a chunk of a direction, and its source (R448). -/
def doneMove : Dir → Move
  | .W => .isrDmaTx
  | .R => .isrDmaRx

def doneSource : Dir → Source
  | .W => .DTX
  | .R => .DRX

/-- A chunk of the record `t` that has taken its CONFIG step from an engine at rest. -/
structure Armed (s : State) (t : Txn) : Prop where
  cfg : configRefusal s.cfg = none
  phase : s.phase = .ARM
  txn : s.txn = some t
  active : s.i2c.peActive = true
  unstalled : s.i2c.stalled = false
  noStop : s.i2c.stop = false
  noNack : s.i2c.nackf = false
  txe : s.i2c.txe = true
  rxne : s.i2c.rxne = false
  bus : s.i2c.bus = .Idle ∨ s.i2c.bus = .Held
  sadd : s.i2c.sadd = t.addr
  rdWrn : s.i2c.rdWrn = (t.dir == .R)
  nbytes : s.i2c.nbytes = t.n
  noError : ∀ dir, (s.chan dir).teif = false
  irq : ∀ dir, s.irqen.get (doneSource dir) = true
  nonempty : t.n ≠ 0
  inMemory : t.buf + t.n.toNat ≤ memTop s.cfg

/-- The chunk's start condition is out, and the Shell waits. -/
def State.opened (s : State) (t : Txn) (rest : List Choice) : State :=
  { s.setChan t.dir { s.chan t.dir with cmar := t.buf, cndtr := t.n, en := true } with
    sem := false
    phase := .WAIT
    trace := s.trace ++ [startEvent s]
    i2c := { s.i2c with start := false, bus := .Addr t.addr t.dir t.n.toNat }
    now := ⟨.pStart, 0⟩
    sched := rest }

/-- The chunk's address byte was acknowledged. -/
def State.inData (s : State) (t : Txn) (rest : List Choice) : State :=
  { s.opened t rest with
    trace := s.trace ++ [startEvent s, .ADDR t.addr t.dir .ACK]
    i2c := { s.i2c with start := false, bus := .Data t.addr t.dir 0 t.n.toNat }
    now := ⟨.pAddr, 0⟩ }

/-- ARM, DRAIN and ENDMA: the channel is set up and enabled, and the signal drained (R202-R204). -/
theorem steps_enableChannel {s : State} {t : Txn} {rest : List Choice} (hcfg : configRefusal s.cfg = none)
    (hp : s.phase = .ARM) (ht : s.txn = some t)
    (hsched : s.sched = ⟨.shell, 0⟩ :: ⟨.shell, 0⟩ :: ⟨.shell, 0⟩ :: rest) :
    steps 3 s = .next { s.setChan t.dir { s.chan t.dir with cmar := t.buf, cndtr := t.n, en := true } with
      sem := false, phase := .START, now := ⟨.shell, 0⟩, sched := rest } := by
  have harm : step s = .next { s.setChan t.dir { s.chan t.dir with cmar := t.buf, cndtr := t.n } with
      phase := .DRAIN, now := ⟨.shell, 0⟩, sched := ⟨.shell, 0⟩ :: ⟨.shell, 0⟩ :: rest } := by
    rw [step_arm ⟨hsched, hcfg⟩ hp ht, armStep]
    cases t.dir <;> rfl
  have hdrain (c : Dma) : step { s.setChan t.dir c with
      phase := .DRAIN, now := ⟨.shell, 0⟩, sched := ⟨.shell, 0⟩ :: ⟨.shell, 0⟩ :: rest }
      = .next { s.setChan t.dir c with
        sem := false, phase := .ENDMA, now := ⟨.shell, 0⟩, sched := ⟨.shell, 0⟩ :: rest } :=
    step_drain ⟨rfl, by simpa using hcfg⟩ rfl
  refine steps_next harm (steps_next (hdrain _) ?_)
  rw [steps, step_endma (d := 0) (rest := rest) ⟨rfl, by simpa using hcfg⟩ rfl (by simpa using ht), endmaStep]
  cases t.dir <;> rfl

/-- START and P-START (R205, R207). -/
theorem steps_startCondition {s : State} {rest : List Choice} (hcfg : configRefusal s.cfg = none) (hp : s.phase = .START)
    (hact : s.i2c.peActive = true) (hstall : s.i2c.stalled = false) (hstop : s.i2c.stop = false)
    (hbus : s.i2c.bus = .Idle ∨ s.i2c.bus = .Held) (hsched : s.sched = ⟨.shell, 0⟩ :: ⟨.pStart, 0⟩ :: rest) :
    steps 2 s = .next { s with
      phase := .WAIT
      trace := s.trace ++ [startEvent s]
      i2c := { s.i2c with
        start := false, bus := .Addr s.i2c.sadd (if s.i2c.rdWrn then .R else .W) s.i2c.nbytes.toNat }
      now := ⟨.pStart, 0⟩
      sched := rest } := by
  refine steps_next (step_start ⟨hsched, hcfg⟩ hp) ?_
  exact steps_next (step_of_mayMove (m := .pStart) ⟨rfl, hcfg⟩ rfl ⟨rfl, hstop, hact, hstall, hbus⟩) rfl

theorem steps_opening {s : State} {t : Txn} {rest : List Choice} (h : Armed s t)
    (hsched : s.sched = ⟨.shell, 0⟩ :: ⟨.shell, 0⟩ :: ⟨.shell, 0⟩ :: ⟨.shell, 0⟩ :: ⟨.pStart, 0⟩ :: rest) :
    steps 5 s = .next (s.opened t rest) := by
  refine steps_append (j := 3) (k := 2) (steps_enableChannel h.cfg h.phase h.txn hsched) ?_
  rw [steps_startCondition (rest := rest) (by simpa using h.cfg) rfl (by simpa using h.active) (by simpa using h.unstalled)
    (by simpa using h.noStop) (by simpa using h.bus) rfl]
  have hdir : (if s.i2c.rdWrn = true then Dir.R else Dir.W) = t.dir := by
    rw [h.rdWrn]
    cases t.dir <;> rfl
  simp [State.opened, startEvent, hdir, h.sadd, h.nbytes]

/-- The address byte's turn, where the bus is at it and the peripheral runs unstalled (R208). -/
theorem step_pAddr {s : State} {a : Addr7} {dir : Dir} {n : Nat} {d : Byte} {rest : List Choice} (h : Turn s .pAddr d rest)
    (hbus : s.i2c.bus = .Addr a dir n) (hact : s.i2c.peActive = true) (hstall : s.i2c.stalled = false) :
    step s = .next (pAddrStep a dir n (s.chosen .pAddr d rest)) := by
  have hf : (s.chosen .pAddr d rest).fetch = some (decodeWire (wireByte a dir)) := by
    simp [State.fetch, State.wireInstr, hbus]
  rw [step_turn_instr h hf, exec_decodeWire_wireByte, State.accept_of_ne (by simp)]
  exact putAddress_at hbus hact hstall

/-- The opening to an address byte that is acknowledged. -/
theorem steps_toData {s : State} {t : Txn} {rest : List Choice} (h : Armed s t)
    (hsched : s.sched = openingChoices ++ rest) : steps 6 s = .next (s.inData t rest) := by
  refine steps_append (j := 5) (k := 1) (steps_opening h hsched) ?_
  have hcfg : configRefusal (s.opened t (⟨.pAddr, 0⟩ :: rest)).cfg = none := by simpa [State.opened] using h.cfg
  have hack : ((s.opened t (⟨.pAddr, 0⟩ :: rest)).chosen .pAddr 0 rest).now.draw.getLsbD 0 = false := by simp
  have hstep := step_pAddr ⟨rfl, hcfg⟩ rfl h.active h.unstalled
  rw [pAddrStep_ack hack] at hstep
  refine steps_next hstep ?_
  simp [steps, State.inData, State.opened, State.chosen]

/-! ## The bytes of a write (R209, R211) -/

theorem Memory.readN_succ (m : Memory) (a k : Nat) : m.readN a (k + 1) = m.read a :: m.readN (a + 1) k := by
  simp [Memory.readN, List.range_succ_eq_map, Function.comp_def, Nat.add_comm, Nat.add_left_comm]

/-- A write chunk at byte `i`, with `k` bytes to come and the TX channel ready for them. -/
structure Writing (s : State) (a : Addr7) (i k : Nat) : Prop where
  cfg : configRefusal s.cfg = none
  active : s.i2c.peActive = true
  unstalled : s.i2c.stalled = false
  bus : s.i2c.bus = .Data a .W i (i + k)
  txe : s.i2c.txe = true
  en : s.tx.en = true
  cndtr : s.tx.cndtr = BitVec.ofNat 8 k
  inMemory : s.tx.cmar + k ≤ memTop s.cfg

theorem nextData_of_lt {a : Addr7} {d : Dir} {i k : Nat} : nextData a d i (i + (k + 2)) = .Data a d (i + 1) (i + 1 + (k + 1)) := by
  rw [nextData, if_neg (by omega)]
  congr 1
  omega

/-- A count of 1 to 255 is not 0 in 8 bits. -/
theorem ofNat_ne_zero {k : Nat} (hpos : 1 ≤ k) (hmax : k ≤ 255) : BitVec.ofNat 8 k ≠ 0 := by
  bv_omega

/-- Byte `i` of `n` has gone from memory to the bus, and was acknowledged. -/
def State.byteWritten (s : State) (a : Addr7) (i n : Nat) (rest : List Choice) : State :=
  { s with
    trace := s.trace ++ [.WR (s.mem.read s.tx.cmar) .ACK]
    i2c := { s.i2c with txdr := s.mem.read s.tx.cmar, txe := true, bus := nextData a .W i n }
    tx := s.tx.advance s.cfg
    now := ⟨.pWbyte, 0⟩
    sched := rest }

theorem steps_writeByte {s : State} {a : Addr7} {i k : Nat} {rest : List Choice} (h : Writing s a i (k + 1))
    (hmax : k + 1 ≤ 255) (hsched : s.sched = ⟨.dmaTx, 0⟩ :: ⟨.pWbyte, 0⟩ :: rest) :
    steps 2 s = .next (s.byteWritten a i (i + (k + 1)) rest) := by
  obtain ⟨hcfg, hact, hstall, hbus, htxe, hen, hcndtr, hmem⟩ := h
  have hcount : s.tx.cndtr ≠ 0 := hcndtr ▸ ofNat_ne_zero (by omega) hmax
  have hdma := (dmaTxMovesOneByte s a i _ 0 _ ⟨hsched, hcfg⟩ hen hcount htxe hbus (by omega)).2 rfl
  have hbyte := (writtenByte { s.chosen .dmaTx 0 (⟨.pWbyte, 0⟩ :: rest) with
    i2c := { s.i2c with txdr := s.mem.read s.tx.cmar, txe := false }, tx := s.tx.advance s.cfg } a i _ 0 rest
    ⟨rfl, hcfg⟩ hact hstall hbus).2.1 rfl rfl
  rw [← Dma.advance_eq] at hdma
  exact steps_next hdma (steps_next hbyte rfl)

/-- After a byte that is not the last, the next one is to come. -/
theorem Writing.next {s : State} {a : Addr7} {i k : Nat} {rest : List Choice} (h : Writing s a i (k + 2)) (hmax : k + 2 ≤ 255) :
    Writing (s.byteWritten a i (i + (k + 2)) rest) a (i + 1) (k + 1) where
  cfg := h.cfg
  active := h.active
  unstalled := h.unstalled
  bus := nextData_of_lt
  txe := rfl
  en := h.en
  cndtr := by
    have := h.cndtr
    simp only [State.byteWritten, Dma.advance]
    bv_omega
  inMemory := by
    have := h.inMemory
    simp only [State.byteWritten, Dma.advance]
    rw [ptr_of_lt] <;> omega

theorem steps_write {a : Addr7} {rest : List Choice} (k : Nat) {s : State} {i : Nat} (h : Writing s a i (k + 1))
    (hmax : k + 1 ≤ 255) (hsched : s.sched = (List.replicate (k + 1) [⟨.dmaTx, 0⟩, ⟨.pWbyte, 0⟩]).flatten ++ rest) :
    ∃ x c, steps (2 * (k + 1)) s = .next { s with
      trace := s.trace ++ (s.mem.readN s.tx.cmar (k + 1)).map (fun b => .WR b .ACK)
      i2c := { s.i2c with txdr := x, txe := true, bus := .Held }
      tx := { s.tx with cmar := c, cndtr := 0, tcif := true }
      now := ⟨.pWbyte, 0⟩
      sched := rest } := by
  induction k generalizing s i with
  | zero =>
    refine ⟨s.mem.read s.tx.cmar, (s.tx.cmar + 1) % memTop s.cfg, ?_⟩
    rw [steps_writeByte h hmax hsched]
    simp [State.byteWritten, Dma.advance_eq, h.cndtr, nextData, Memory.readN]
  | succ k ih =>
    obtain ⟨x, c, hrest⟩ := ih (h.next (rest := _) hmax) (by omega) rfl
    refine ⟨x, c, ?_⟩
    rw [show 2 * (k + 1 + 1) = 2 + 2 * (k + 1) by omega, steps_append (steps_writeByte h hmax hsched) hrest]
    have hcmar : ptr s.cfg (s.tx.cmar + 1) = s.tx.cmar + 1 := ptr_of_lt (by have := h.inMemory; omega)
    simp [State.byteWritten, Dma.advance, hcmar, Memory.readN_succ]

/-! ## The bytes of a read (R210, R212) -/

/-- A read chunk at byte `i`, with `k` bytes to come and the RX channel ready for them. -/
structure Reading (s : State) (a : Addr7) (i k : Nat) : Prop where
  cfg : configRefusal s.cfg = none
  active : s.i2c.peActive = true
  unstalled : s.i2c.stalled = false
  bus : s.i2c.bus = .Data a .R i (i + k)
  rxne : s.i2c.rxne = false
  en : s.rx.en = true
  cndtr : s.rx.cndtr = BitVec.ofNat 8 k
  inMemory : s.rx.cmar + k ≤ memTop s.cfg

/-- Byte `i` of `n`, which the target drove, has gone from the bus to memory. -/
def State.byteRead (s : State) (a : Addr7) (i n : Nat) (b : Byte) (rest : List Choice) : State :=
  { s with
    trace := s.trace ++ [.RD b (readAck i n)]
    i2c := { s.i2c with rxdr := b, rxne := false, bus := nextData a .R i n }
    rx := s.rx.advance s.cfg
    mem := s.mem.write s.rx.cmar b
    now := ⟨.dmaRx, 0⟩
    sched := rest }

theorem steps_readByte {s : State} {a : Addr7} {i k : Nat} {b : Byte} {rest : List Choice} (h : Reading s a i (k + 1))
    (hmax : k + 1 ≤ 255) (hsched : s.sched = ⟨.pRbyte, b⟩ :: ⟨.dmaRx, 0⟩ :: rest) :
    steps 2 s = .next (s.byteRead a i (i + (k + 1)) b rest) := by
  obtain ⟨hcfg, hact, hstall, hbus, hrxne, hen, hcndtr, hmem⟩ := h
  have hcount : s.rx.cndtr ≠ 0 := hcndtr ▸ ofNat_ne_zero (by omega) hmax
  have hbyte := (readByte s a i _ b _ ⟨hsched, hcfg⟩ hact hstall hbus).1 hrxne
  have hdma := step_of_mayMove (m := .dmaRx) (d := 0) (rest := rest) (s := { s.chosen .pRbyte b (⟨.dmaRx, 0⟩ :: rest) with
    trace := s.trace ++ [.RD b (readAck i (i + (k + 1)))]
    i2c := { s.i2c with rxdr := b, rxne := true, bus := nextData a .R i (i + (k + 1)) } }) ⟨rfl, hcfg⟩ rfl
    ⟨hen, hcount, rfl⟩
  refine steps_next hbyte (steps_next hdma ?_)
  simp [steps, dmaRxStep, State.drawBit, State.byteRead, State.chosen, ptr_of_lt (show s.rx.cmar < memTop s.cfg by omega)]

/-- After a byte that is not the last, the next one is to come. -/
theorem Reading.next {s : State} {a : Addr7} {i k : Nat} {b : Byte} {rest : List Choice} (h : Reading s a i (k + 2))
    (hmax : k + 2 ≤ 255) : Reading (s.byteRead a i (i + (k + 2)) b rest) a (i + 1) (k + 1) where
  cfg := h.cfg
  active := h.active
  unstalled := h.unstalled
  bus := nextData_of_lt
  rxne := rfl
  en := h.en
  cndtr := by
    have := h.cndtr
    simp only [State.byteRead, Dma.advance]
    bv_omega
  inMemory := by
    have := h.inMemory
    simp only [State.byteRead, Dma.advance]
    rw [ptr_of_lt] <;> omega

theorem steps_read {a : Addr7} {rest : List Choice} (b : Byte) (bs : List Byte) {s : State} {i : Nat}
    (h : Reading s a i (bs.length + 1)) (hmax : bs.length + 1 ≤ 255)
    (hsched : s.sched = ((b :: bs).map (fun b => [⟨.pRbyte, b⟩, ⟨.dmaRx, 0⟩])).flatten ++ rest) :
    ∃ x c, steps (2 * (bs.length + 1)) s = .next { s with
      trace := s.trace ++ readEvents (b :: bs)
      i2c := { s.i2c with rxdr := x, rxne := false, bus := .Held }
      rx := { s.rx with cmar := c, cndtr := 0, tcif := true }
      mem := s.mem.writeN s.rx.cmar (b :: bs)
      now := ⟨.dmaRx, 0⟩
      sched := rest } := by
  induction bs generalizing s i b with
  | nil =>
    refine ⟨b, (s.rx.cmar + 1) % memTop s.cfg, ?_⟩
    rw [List.length_nil, steps_readByte h hmax hsched]
    have hlast : s.rx.cndtr = 1 := h.cndtr
    simp [State.byteRead, Dma.advance_eq, hlast, nextData, readEvents, readAck, Memory.writeN]
  | cons b' bs ih =>
    obtain ⟨x, c, hrest⟩ := ih b' (h.next (b := b) (rest := _) hmax) (by rw [List.length_cons] at hmax; omega) rfl
    refine ⟨x, c, ?_⟩
    have hlen : 2 * ((b' :: bs).length + 1) = 2 + 2 * (bs.length + 1) := by rw [List.length_cons]; omega
    rw [hlen, steps_append (steps_readByte h hmax hsched) hrest]
    have hcmar : ptr s.cfg (s.rx.cmar + 1) = s.rx.cmar + 1 :=
      ptr_of_lt (by have := h.inMemory; simp only [List.length_cons] at this; omega)
    simp [State.byteRead, Dma.advance, hcmar, readEvents, readAck, Memory.writeN]

/-! ## From the last byte to the STOP (R206, R215-R220) -/

/-- A chunk whose channel has moved its last byte, outside any call, with its completion interrupt enabled. -/
structure Done (s : State) (t : Txn) : Prop where
  cfg : configRefusal s.cfg = none
  phase : s.phase = .WAIT
  txn : s.txn = some t
  alone : s.call = none
  active : s.i2c.peActive = true
  unstalled : s.i2c.stalled = false
  noStop : s.i2c.stop = false
  noNack : s.i2c.nackf = false
  held : s.i2c.bus = .Held
  complete : (s.chan t.dir).tcif = true
  noError : (s.chan t.dir).teif = false
  irq : s.irqen.get (doneSource t.dir) = true
  nonempty : t.n ≠ 0

/-- The completion handler gives, and the Shell takes the signal. -/
theorem steps_waitDone {s : State} {dir : Dir} {rest : List Choice} (hcfg : configRefusal s.cfg = none)
    (hp : s.phase = .WAIT) (hdone : (s.chan dir).tcif = true) (hirq : s.irqen.get (doneSource dir) = true)
    (hsched : s.sched = ⟨doneMove dir, 0⟩ :: ⟨.shell, 0⟩ :: rest) :
    steps 2 s = .next { s with
      irqen := s.irqen.set (doneSource dir) false, sem := false, eng := { s.eng with timedOut := false }, phase := .EVAL
      now := ⟨.shell, 0⟩, sched := rest } := by
  have hgive : step s = .next { s with
      irqen := s.irqen.set (doneSource dir) false, sem := true
      now := ⟨doneMove dir, 0⟩, sched := ⟨.shell, 0⟩ :: rest } := by
    cases dir
    · exact step_of_mayMove (m := .isrDmaTx) ⟨hsched, hcfg⟩ rfl ⟨.inl hdone, hirq⟩
    · exact step_of_mayMove (m := .isrDmaRx) ⟨hsched, hcfg⟩ rfl ⟨.inl hdone, hirq⟩
  refine steps_next hgive ?_
  rw [steps, step_waitTake (d := 0) (rest := rest) ⟨rfl, by exact hcfg⟩ (by exact hp) rfl]
  rfl

theorem dmaoffStep_of_res_ne_zero {s : State} {t : Txn} (h : s.eng.res ≠ 0) :
    dmaoffStep s t = (s.setChan t.dir { s.chan t.dir with en := false, tcif := false, teif := false }).setPhase .REARM := by
  rw [dmaoffStep, if_neg h]

/-- EVAL, STOPREQ and DMAOFF of a chunk that nothing failed (R215-R218). -/
theorem steps_evalSuccess {s : State} {t : Txn} {rest : List Choice} (hcfg : configRefusal s.cfg = none)
    (hp : s.phase = .EVAL) (ht : s.txn = some t) (htime : s.eng.timedOut = false) (hnack : s.i2c.nackf = false)
    (htcif : (s.chan t.dir).tcif = true) (hteif : (s.chan t.dir).teif = false) (hn : t.n ≠ 0)
    (hsched : s.sched = ⟨.shell, 0⟩ :: ⟨.shell, 0⟩ :: ⟨.shell, 0⟩ :: rest) :
    steps 3 s = .next { s.setChan t.dir { s.chan t.dir with en := false, tcif := false, teif := false } with
      eng := { s.eng with res := t.n, cause := .NONE }
      i2c := if t.cont then s.i2c else { s.i2c with stop := true }
      phase := .REARM
      now := ⟨.shell, 0⟩
      sched := rest } := by
  have heval : step s = .next { s with
      eng := { s.eng with res := t.n, cause := .NONE }, phase := .STOPREQ
      now := ⟨.shell, 0⟩, sched := ⟨.shell, 0⟩ :: ⟨.shell, 0⟩ :: rest } := by
    have hchan : (s.chosen .shell 0 (⟨.shell, 0⟩ :: ⟨.shell, 0⟩ :: rest)).chan t.dir = s.chan t.dir := by
      cases t.dir <;> rfl
    obtain ⟨hres, hcause⟩ := eval_success (s := s.chosen .shell 0 (⟨.shell, 0⟩ :: ⟨.shell, 0⟩ :: rest)) htime hnack
      (hchan ▸ htcif) (hchan ▸ hteif)
    rw [step_eval ⟨hsched, hcfg⟩ hp ht, evalStep, hres, hcause, if_neg (by simp [hnack])]
    rfl
  have hstopreq : step { s with
      eng := { s.eng with res := t.n, cause := .NONE }, phase := .STOPREQ
      now := ⟨.shell, 0⟩, sched := ⟨.shell, 0⟩ :: ⟨.shell, 0⟩ :: rest } = .next { s with
      eng := { s.eng with res := t.n, cause := .NONE }, i2c := if t.cont then s.i2c else { s.i2c with stop := true }
      phase := .DMAOFF, now := ⟨.shell, 0⟩, sched := ⟨.shell, 0⟩ :: rest } := by
    rw [step_stopreq ⟨rfl, by exact hcfg⟩ rfl (by exact ht), stopreqStep]
    cases hcont : t.cont <;> simp [htime, State.chosen, State.setPhase]
  refine steps_next heval (steps_next hstopreq ?_)
  rw [steps, step_dmaoff (d := 0) (rest := rest) ⟨rfl, by exact hcfg⟩ rfl (by exact ht),
    dmaoffStep_of_res_ne_zero (by exact hn)]
  cases t.dir <;> rfl

/-- REARM of a chunk outside any call, and the STOP that it requested, or did not (R220, R213). -/
theorem steps_rearmStop {s : State} {cont : Bool} {i2c : I2cp} (hcfg : configRefusal s.cfg = none) (hp : s.phase = .REARM)
    (hc : s.call = none) (hres : s.eng.res ≠ 0) (hact : i2c.peActive = true) (hstall : i2c.stalled = false)
    (hbus : i2c.bus = .Held) (hstop : i2c.stop = false) (hi2c : s.i2c = if cont then i2c else { i2c with stop := true })
    (hsched : s.sched = [⟨.shell, 0⟩, ⟨.pStop, 0⟩]) :
    steps 2 s = .next { s with
      irqen := ⟨true, true, true, true, s.irqen.usb⟩, txn := none, phase := .IDLE
      trace := s.trace ++ (if cont then [] else [.STOP])
      i2c := if cont then i2c else { i2c with stop := false, stopf := true, bus := .Idle }
      now := ⟨.pStop, 0⟩
      sched := [] } := by
  have hrearm : step s = .next { s with
      irqen := ⟨true, true, true, true, s.irqen.usb⟩, txn := none, phase := .IDLE
      now := ⟨.shell, 0⟩, sched := [⟨.pStop, 0⟩] } := by
    rw [step_rearmStep ⟨hsched, hcfg⟩ hp, rearmStep_of_res_ne_zero (by exact hres), State.chunkDone_none (by exact hc)]
    rfl
  refine steps_next hrearm ?_
  cases cont with
  | true =>
    have hhold := step_of_not_mayMove (m := .pStop) (d := 0) (rest := []) (s := { s with
      irqen := ⟨true, true, true, true, s.irqen.usb⟩, txn := none, phase := .IDLE
      now := ⟨.shell, 0⟩, sched := [⟨.pStop, 0⟩] }) ⟨rfl, hcfg⟩ (by simp [MayMove, hi2c, hstop])
    rw [steps, hhold]
    simp [steps, State.chosen, hi2c]
  | false =>
    have hout := (stopCondition { s with
      irqen := ⟨true, true, true, true, s.irqen.usb⟩, txn := none, phase := .IDLE
      now := ⟨.shell, 0⟩, sched := [⟨.pStop, 0⟩] } 0 [] ⟨rfl, hcfg⟩ (by simp [hi2c, hact]) (by simp [hi2c, hstall])
      (by simp [hi2c])).2.1 (.inl (by simp [hi2c, hbus]))
    rw [steps, hout]
    simp [steps, State.chosen, hi2c]

/-- The chunk is over: its result is its length, its channel is off, its record is discarded, and the bus is held or has
had its STOP. -/
def State.closed (s : State) (t : Txn) : State :=
  { s.setChan t.dir { s.chan t.dir with en := false, tcif := false, teif := false } with
    sem := false
    irqen := ⟨true, true, true, true, s.irqen.usb⟩
    eng := { s.eng with timedOut := false, res := t.n, cause := .NONE }
    i2c := if t.cont then s.i2c else { s.i2c with stop := false, stopf := true, bus := .Idle }
    txn := none
    phase := .IDLE
    trace := s.trace ++ (if t.cont then [] else [.STOP])
    now := ⟨.pStop, 0⟩
    sched := [] }

theorem State.chan_congr {s u : State} (htx : u.tx = s.tx) (hrx : u.rx = s.rx) (d : Dir) : u.chan d = s.chan d := by
  cases d
  · exact htx
  · exact hrx

theorem steps_closing {s : State} {t : Txn} (h : Done s t)
    (hsched : s.sched = ⟨doneMove t.dir, 0⟩ :: closingChoices) : steps 7 s = .next (s.closed t) := by
  refine steps_append (j := 2) (k := 5) (steps_waitDone h.cfg h.phase h.complete h.irq hsched) ?_
  refine steps_append (j := 3) (k := 2) (steps_evalSuccess (t := t) (rest := [⟨.shell, 0⟩, ⟨.pStop, 0⟩])
    (by exact h.cfg) rfl (by exact h.txn) rfl (by exact h.noNack) ?_ ?_ h.nonempty rfl) ?_
  · exact (congrArg Dma.tcif (State.chan_congr rfl rfl t.dir)).trans h.complete
  · exact (congrArg Dma.teif (State.chan_congr rfl rfl t.dir)).trans h.noError
  rw [steps_rearmStop (cont := t.cont) (i2c := s.i2c) (by simpa using h.cfg) rfl (by simpa using h.alone)
    (by simpa using h.nonempty) h.active h.unstalled h.held h.noStop rfl rfl, State.closed]
  cases t.dir <;> rfl

/-! ## Whole chunks (R200, R230) -/

theorem toNat_ofNat_of_le {n : Nat} (h : n ≤ 255) : (BitVec.ofNat 8 n).toNat = n := by
  rw [BitVec.toNat_ofNat]
  omega

/-- CONFIG from an engine at rest leaves the chunk ready to arm. -/
theorem configStep_armed {s : State} {a : Addr7} {dir : Dir} {buf n : Nat} {cont : Bool} {l : List Choice}
    (h : EngineClean s) (hn : 1 ≤ n) (hmax : n ≤ 255) (hmem : buf + n ≤ memTop s.cfg) :
    Armed { configStep a dir buf n cont s with sched := l } ⟨a, dir, buf, n, BitVec.ofNat 8 n, cont⟩ := by
  obtain ⟨hcfg, -, hcall, -, hact, hstall, -, hstop, hnack, htxe, hrxne, hbus, htx, hrx, -, hdtx, hdrx⟩ := h
  refine ⟨hcfg, rfl, ?_, hact, hstall, hstop, hnack, htxe, hrxne, hbus, rfl, rfl, rfl, ?_, ?_, ofNat_ne_zero hn hmax, ?_⟩
  · simp [configStep, State.callerLen, hcall, ptr_of_lt (show buf < memTop s.cfg by omega)]
  · rintro (_ | _)
    · exact congrArg Dma.teif htx
    · exact congrArg Dma.teif hrx
  · rintro (_ | _)
    · exact hdtx
    · exact hdrx
  · rw [toNat_ofNat_of_le hmax]
    exact hmem

theorem Armed.count {s : State} {t : Txn} (h : Armed s t) : ∃ k, t.n.toNat = k + 1 ∧ k + 1 ≤ 255 := by
  have hne := h.nonempty
  exact ⟨t.n.toNat - 1, by bv_omega, by bv_omega⟩

/-- The bytes of a write chunk are all out. -/
def State.written (s : State) (t : Txn) (bs : List Byte) (x : Byte) (c : Nat) (rest : List Choice) : State :=
  { s.inData t rest with
    trace := s.trace ++ [startEvent s, .ADDR t.addr t.dir .ACK] ++ bs.map (fun b => .WR b .ACK)
    i2c := { s.i2c with start := false, txdr := x, txe := true, bus := .Held }
    tx := { s.tx with en := true, cmar := c, cndtr := 0, tcif := true }
    now := ⟨.pWbyte, 0⟩ }

/-- The bytes of a read chunk are all in memory. -/
def State.readOver (s : State) (t : Txn) (bs : List Byte) (x : Byte) (c : Nat) (rest : List Choice) : State :=
  { s.inData t rest with
    trace := s.trace ++ [startEvent s, .ADDR t.addr t.dir .ACK] ++ readEvents bs
    i2c := { s.i2c with start := false, rxdr := x, rxne := false, bus := .Held }
    rx := { s.rx with en := true, cmar := c, cndtr := 0, tcif := true }
    mem := s.mem.writeN t.buf bs
    now := ⟨.dmaRx, 0⟩ }

section
variable {s : State} {t : Txn} (h : Armed s t)
include h

theorem Armed.writing (hdir : t.dir = .W) {k : Nat} (hk : t.n.toNat = k + 1) (rest : List Choice) :
    Writing (s.inData t rest) t.addr 0 (k + 1) := by
  obtain ⟨addr, dir, buf, len, n, cont⟩ := t
  obtain rfl : dir = .W := hdir
  refine ⟨h.cfg, h.active, h.unstalled, ?_, h.txe, rfl, ?_, ?_⟩
  · simp [State.inData, ← hk]
  · show n = BitVec.ofNat 8 (k + 1)
    simp [← hk]
  · exact hk ▸ h.inMemory

theorem Armed.reading (hdir : t.dir = .R) {k : Nat} (hk : t.n.toNat = k + 1) (rest : List Choice) :
    Reading (s.inData t rest) t.addr 0 (k + 1) := by
  obtain ⟨addr, dir, buf, len, n, cont⟩ := t
  obtain rfl : dir = .R := hdir
  refine ⟨h.cfg, h.active, h.unstalled, ?_, h.rxne, rfl, ?_, ?_⟩
  · simp [State.inData, ← hk]
  · show n = BitVec.ofNat 8 (k + 1)
    simp [← hk]
  · exact hk ▸ h.inMemory

theorem steps_writeBytes (hdir : t.dir = .W) {n : Nat} (hn : t.n.toNat = n) {rest : List Choice}
    (hsched : s.sched = openingChoices ++ ((List.replicate n [⟨.dmaTx, 0⟩, ⟨.pWbyte, 0⟩]).flatten ++ rest)) :
    ∃ x c, steps (6 + 2 * n) s = .next (s.written t (s.mem.readN t.buf n) x c rest) := by
  obtain ⟨k, hk, hmax⟩ := h.count
  obtain rfl : n = k + 1 := hn.symm.trans hk
  obtain ⟨x, c, hloop⟩ := steps_write k (h.writing hdir hk _) hmax rfl
  refine ⟨x, c, steps_append (steps_toData h hsched) ?_⟩
  rw [hloop]
  obtain ⟨addr, dir, buf, len, m, cont⟩ := t
  obtain rfl : dir = .W := hdir
  simp [State.written, State.inData, State.opened]

theorem steps_readBytes (hdir : t.dir = .R) {bs : List Byte} (hbs : t.n.toNat = bs.length) {rest : List Choice}
    (hsched : s.sched = openingChoices ++ ((bs.map (fun b => [⟨.pRbyte, b⟩, ⟨.dmaRx, 0⟩])).flatten ++ rest)) :
    ∃ x c, steps (6 + 2 * bs.length) s = .next (s.readOver t bs x c rest) := by
  obtain ⟨k, hk, hmax⟩ := h.count
  obtain _ | ⟨b, bs⟩ := bs
  · simp [hbs] at hk
  have hlen : t.n.toNat = bs.length + 1 := by simpa using hbs
  obtain ⟨x, c, hloop⟩ := steps_read b bs (h.reading hdir hlen _) (by omega) rfl
  refine ⟨x, c, steps_append (steps_toData h hsched) ?_⟩
  rw [List.length_cons, hloop]
  obtain ⟨addr, dir, buf, len, n, cont⟩ := t
  obtain rfl : dir = .R := hdir
  simp [State.readOver, State.inData, State.opened]

theorem Armed.written_done (hdir : t.dir = .W) (hcall : s.call = none) (bs : List Byte) (x : Byte) (c : Nat)
    (rest : List Choice) : Done (s.written t bs x c rest) t := by
  obtain ⟨addr, dir, buf, len, n, cont⟩ := t
  obtain rfl : dir = .W := hdir
  exact ⟨h.cfg, rfl, h.txn, hcall, h.active, h.unstalled, h.noStop, h.noNack, rfl, rfl, h.noError .W, h.irq .W, h.nonempty⟩

theorem Armed.readOver_done (hdir : t.dir = .R) (hcall : s.call = none) (bs : List Byte) (x : Byte) (c : Nat)
    (rest : List Choice) : Done (s.readOver t bs x c rest) t := by
  obtain ⟨addr, dir, buf, len, n, cont⟩ := t
  obtain rfl : dir = .R := hdir
  exact ⟨h.cfg, rfl, h.txn, hcall, h.active, h.unstalled, h.noStop, h.noNack, rfl, rfl, h.noError .R, h.irq .R, h.nonempty⟩

end

/-- Settles O57: CONFIG, the bytes and the closing, one after another. -/
theorem writeChunkCompletes : Obligations.WriteChunkCompletes := by
  intro s a buf n cont h hmove hn hmax hmem
  have harmed := configStep_armed (a := a) (dir := .W) (cont := cont) (l := writeChoices n) h hn hmax hmem
  obtain ⟨-, hphase, hcall, -⟩ := h
  obtain ⟨x, c, hbytes⟩ := steps_writeBytes harmed rfl (toNat_ofNat_of_le hmax) (rest := ⟨.isrDmaTx, 0⟩ :: closingChoices)
    (by simp [writeChoices])
  have hclose := steps_closing (harmed.written_done rfl hcall (s.mem.readN buf n) x c _) rfl
  have hlen : (writeChoices n).length = 6 + 2 * n + 7 := by
    simp [writeChoices, openingChoices, closingChoices]
    omega
  refine ⟨_, _, exec_chunk_config hmove hn hmax hmem (.inl hphase), hlen ▸ steps_append hbytes hclose, ?_⟩
  cases cont <;> exact ⟨rfl, rfl, rfl, rfl, rfl, rfl, rfl, rfl, rfl, rfl, rfl⟩

/-- Settles O58: CONFIG, the bytes and the closing, one after another. -/
theorem readChunkCompletes : Obligations.ReadChunkCompletes := by
  intro s a buf bs cont h hmove hn hmax hmem
  have harmed := configStep_armed (a := a) (dir := .R) (cont := cont) (l := readChoices bs) h hn hmax hmem
  obtain ⟨-, hphase, hcall, -⟩ := h
  obtain ⟨x, c, hbytes⟩ := steps_readBytes harmed rfl (toNat_ofNat_of_le hmax) (rest := ⟨.isrDmaRx, 0⟩ :: closingChoices)
    (by simp [readChoices])
  have hclose := steps_closing (harmed.readOver_done rfl hcall bs x c _) rfl
  have hlen : (readChoices bs).length = 6 + 2 * bs.length + 7 := by
    simp [readChoices, openingChoices, closingChoices, Function.comp_def]
    omega
  refine ⟨_, _, exec_chunk_config hmove hn hmax hmem (.inl hphase), hlen ▸ steps_append hbytes hclose, ?_⟩
  have hread := Memory.readN_writeN s.mem buf bs
  have hother (y : Nat) (hy : y < buf ∨ buf + bs.length ≤ y) := Memory.read_writeN_outside s.mem buf y bs hy
  cases cont <;> exact ⟨rfl, rfl, rfl, rfl, rfl, rfl, rfl, rfl, rfl, hread, hother⟩

end Sys2Proof.Machine

/-!
PROOFS. A chunk whose address is not acknowledged, to the end of its soft reset (O60).
-/

namespace Sys2Proof.Machine

/-- The chunk's address byte was not acknowledged, and the peripheral ended the transaction with a STOP (R208). -/
def State.addressNacked (s : State) (t : Txn) (rest : List Choice) : State :=
  { s.opened t rest with
    trace := s.trace ++ [startEvent s, .ADDR t.addr t.dir .NACK, .STOP]
    i2c := { s.i2c with start := false, nackf := true, stopf := true, bus := .Idle }
    now := ⟨.pAddr, 1⟩ }

/-- The opening to an address byte that is not acknowledged. -/
theorem steps_toNack {s : State} {t : Txn} {rest : List Choice} (h : Armed s t)
    (hsched : s.sched = ⟨.shell, 0⟩ :: ⟨.shell, 0⟩ :: ⟨.shell, 0⟩ :: ⟨.shell, 0⟩ :: ⟨.pStart, 0⟩ :: ⟨.pAddr, 1⟩ :: rest) :
    steps 6 s = .next (s.addressNacked t rest) := by
  refine steps_append (j := 5) (k := 1) (steps_opening h hsched) ?_
  have hcfg : configRefusal (s.opened t (⟨.pAddr, 1⟩ :: rest)).cfg = none := by simpa [State.opened] using h.cfg
  have hnack : ((s.opened t (⟨.pAddr, 1⟩ :: rest)).chosen .pAddr 1 rest).now.draw.getLsbD 0 = true := by simp
  have hstep := step_pAddr ⟨rfl, hcfg⟩ rfl h.active h.unstalled
  rw [pAddrStep_nack hnack] at hstep
  refine steps_next hstep ?_
  simp [steps, State.addressNacked, State.opened, State.chosen]

/-- The NACK's handler gives, and the Shell takes the signal (R446, R206). -/
theorem steps_waitNack {s : State} {rest : List Choice} (hcfg : configRefusal s.cfg = none) (hp : s.phase = .WAIT)
    (hnack : s.i2c.nackf = true) (hirq : s.irqen.ev = true) (hsched : s.sched = ⟨.isrI2cEv, 0⟩ :: ⟨.shell, 0⟩ :: rest) :
    steps 2 s = .next { s with
      irqen := { s.irqen with ev := false }, sem := false, eng := { s.eng with timedOut := false }, phase := .EVAL
      now := ⟨.shell, 0⟩, sched := rest } := by
  refine steps_next (step_of_mayMove (m := .isrI2cEv) ⟨hsched, hcfg⟩ rfl ⟨hnack, hirq⟩) ?_
  rw [steps, step_waitTake (d := 0) (rest := rest) ⟨rfl, by exact hcfg⟩ (by exact hp) rfl]
  rfl

theorem dmaoffStep_of_res_zero {s : State} {t : Txn} (h : s.eng.res = 0) :
    dmaoffStep s t = (s.setChan t.dir { s.chan t.dir with en := false, tcif := false, teif := false }).setPhase .RST_DIS := by
  rw [dmaoffStep, if_pos h]

/-- EVAL, STOPREQ and DMAOFF of a chunk that the target did not acknowledge (R215-R219). -/
theorem steps_evalNack {s : State} {t : Txn} {rest : List Choice} (hcfg : configRefusal s.cfg = none)
    (hp : s.phase = .EVAL) (ht : s.txn = some t) (htime : s.eng.timedOut = false) (hnack : s.i2c.nackf = true)
    (hsched : s.sched = ⟨.shell, 0⟩ :: ⟨.shell, 0⟩ :: ⟨.shell, 0⟩ :: rest) :
    steps 3 s = .next { s.setChan t.dir { s.chan t.dir with en := false, tcif := false, teif := false } with
      eng := { s.eng with res := 0, cause := .NACK }
      i2c := { s.i2c with nackf := false, stopf := false, stop := s.i2c.stop || !t.cont }
      phase := .RST_DIS
      now := ⟨.shell, 0⟩
      sched := rest } := by
  have heval : step s = .next { s with
      eng := { s.eng with res := 0, cause := .NACK }, i2c := { s.i2c with nackf := false, stopf := false }, phase := .STOPREQ
      now := ⟨.shell, 0⟩, sched := ⟨.shell, 0⟩ :: ⟨.shell, 0⟩ :: rest } := by
    obtain ⟨hres, hcause⟩ := eval_nack (t := t) (s := s.chosen .shell 0 (⟨.shell, 0⟩ :: ⟨.shell, 0⟩ :: rest)) htime hnack
    rw [step_eval ⟨hsched, hcfg⟩ hp ht, evalStep, hres, hcause, if_pos (by exact hnack)]
    rfl
  have hstopreq : step { s with
      eng := { s.eng with res := 0, cause := .NACK }, i2c := { s.i2c with nackf := false, stopf := false }, phase := .STOPREQ
      now := ⟨.shell, 0⟩, sched := ⟨.shell, 0⟩ :: ⟨.shell, 0⟩ :: rest } = .next { s with
      eng := { s.eng with res := 0, cause := .NACK }
      i2c := { s.i2c with nackf := false, stopf := false, stop := s.i2c.stop || !t.cont }
      phase := .DMAOFF, now := ⟨.shell, 0⟩, sched := ⟨.shell, 0⟩ :: rest } := by
    rw [step_stopreq ⟨rfl, by exact hcfg⟩ rfl (by exact ht), stopreqStep]
    cases hcont : t.cont <;> simp [htime, State.chosen, State.setPhase]
  refine steps_next heval (steps_next hstopreq ?_)
  rw [steps, step_dmaoff (d := 0) (rest := rest) ⟨rfl, by exact hcfg⟩ rfl (by exact ht), dmaoffStep_of_res_zero rfl]
  cases t.dir <;> rfl

/-- The peripheral after a soft reset that no stall outlasts: as after initialisation, but for the control fields and the
data registers (R222). -/
def I2cp.reinit (p : I2cp) : I2cp :=
  { I2cp.reset with sadd := p.sadd, rdWrn := p.rdWrn, nbytes := p.nbytes, txdr := p.txdr, rxdr := p.rxdr }

/-- The soft reset of a chunk outside any call whose bus is idle, and REARM (R220-R222). -/
theorem steps_softReset {s : State} (hcfg : configRefusal s.cfg = none) (hp : s.phase = .RST_DIS) (hc : s.call = none)
    (hact : s.i2c.peActive = true) (hbus : s.i2c.bus = .Idle) (hstall : s.i2c.stalled = false)
    (hsched : s.sched = [⟨.shell, 0⟩, ⟨.pDisable, 0⟩, ⟨.shell, 0⟩, ⟨.shell, 0⟩, ⟨.shell, 0⟩]) :
    ∃ m f, steps 5 s = .next { s.settled m f s.eng.total with
      i2c := s.i2c.reinit, now := ⟨.shell, 0⟩, sched := [] } := by
  have hreset : steps 4 s = .next { s with
      phase := .REARM, i2c := s.i2c.reinit, now := ⟨.shell, 0⟩, sched := [⟨.shell, 0⟩] } := by
    refine steps_next (step_rstDis (d := 0) ⟨hsched, hcfg⟩ hp) ?_
    refine Eq.trans (steps_disable_enable (d2 := 0) (d3 := 0) (d4 := 0) (rest := [⟨.shell, 0⟩]) hcfg rfl rfl rfl hact) ?_
    simp [State.chosen, rstDisStep, State.setPhase, I2cp.reinit, I2cp.reset, hbus, hstall]
  obtain ⟨m, f, -, hrearm⟩ := rearmStep_alone (s := { s with
    phase := .REARM, i2c := s.i2c.reinit, now := ⟨.shell, 0⟩, sched := [] }) hc
  refine ⟨m, f, steps_append (j := 4) (k := 1) hreset ?_⟩
  rw [steps, step_rearmStep (d := 0) (rest := []) ⟨rfl, by exact hcfg⟩ rfl]
  exact congrArg _ hrearm

/-- The chunk is over after its address was not acknowledged: its result is 0, its channel is off, its record is discarded,
and the peripheral is as after initialisation, but for the control fields and the data registers. -/
def State.nackEnded (s : State) (t : Txn) (m : Memory) (f : Nat) : State :=
  { s.setChan t.dir { s.chan t.dir with en := false, tcif := false, teif := false } with
    sem := false
    irqen := ⟨true, true, true, true, s.irqen.usb⟩
    eng := { s.eng with timedOut := false, res := 0, cause := .NACK }
    i2c := s.i2c.reinit
    txn := none
    phase := .IDLE
    mem := m
    free := f
    now := ⟨.shell, 0⟩
    sched := [] }

/-- The choices from the NACK to the end of the soft reset. -/
def settleChoices : List Choice :=
  [⟨.isrI2cEv, 0⟩, ⟨.shell, 0⟩, ⟨.shell, 0⟩, ⟨.shell, 0⟩, ⟨.shell, 0⟩, ⟨.shell, 0⟩, ⟨.pDisable, 0⟩, ⟨.shell, 0⟩, ⟨.shell, 0⟩,
   ⟨.shell, 0⟩]

/-- The settle of a chunk outside any call whose address was not acknowledged, with its soft reset. -/
theorem steps_settleNack {s : State} {t : Txn} (hcfg : configRefusal s.cfg = none) (hp : s.phase = .WAIT)
    (ht : s.txn = some t) (hc : s.call = none) (hnack : s.i2c.nackf = true) (hirq : s.irqen.ev = true)
    (hact : s.i2c.peActive = true) (hbus : s.i2c.bus = .Idle) (hstall : s.i2c.stalled = false)
    (hsched : s.sched = settleChoices) : ∃ m f, steps 10 s = .next (s.nackEnded t m f) := by
  obtain ⟨addr, dir, buf, len, n, cont⟩ := t
  have heval := steps_append (steps_waitNack hcfg hp hnack hirq hsched)
    (steps_evalNack (by exact hcfg) rfl (by exact ht) rfl (by exact hnack) rfl)
  cases dir
  all_goals
    exact Exists.imp (fun _ => Exists.imp fun _ => steps_append heval) (steps_softReset (by exact hcfg) (by rfl)
      (by exact hc) (by exact hact) (by exact hbus) (by exact hstall) (by rfl))

/-- The chunk from ARM to the end of its soft reset. -/
theorem steps_nackedChunk {s : State} {t : Txn} (h : Armed s t) (hc : s.call = none) (hirq : s.irqen.ev = true)
    (hsched : s.sched = nackChoices) :
    ∃ m f, steps 16 s = .next ((s.addressNacked t settleChoices).nackEnded t m f) := by
  have hopen := steps_toNack h hsched
  have hsettle : ∃ m f, steps 10 (s.addressNacked t settleChoices)
      = .next ((s.addressNacked t settleChoices).nackEnded t m f) := by
    obtain ⟨addr, dir, buf, len, n, cont⟩ := t
    cases dir <;> exact steps_settleNack h.cfg rfl h.txn hc rfl hirq h.active rfl h.unstalled rfl
  obtain ⟨m, f, hsettle⟩ := hsettle
  exact ⟨m, f, steps_append (j := 6) (k := 10) hopen hsettle⟩

/-- Settles O60: CONFIG, the opening to the NACK, and the settle with its soft reset, one after another. -/
theorem addressNackFailsChunk : Obligations.AddressNackFailsChunk := by
  intro s a dir buf n cont h hmove hn hmax hmem
  have harmed := configStep_armed (a := a) (dir := dir) (cont := cont) (l := nackChoices) h hn hmax hmem
  obtain ⟨-, hphase, hcall, -, -, -, -, -, -, -, -, -, htx, hrx, hev, -⟩ := h
  obtain ⟨m, f, hrun⟩ := steps_nackedChunk harmed hcall hev rfl
  refine ⟨_, _, exec_chunk_config hmove hn hmax hmem (.inl hphase), hrun, ?_⟩
  have htxoff := congrArg Dma.en htx
  have hrxoff := congrArg Dma.en hrx
  cases dir
  · exact ⟨rfl, rfl, rfl, rfl, rfl, rfl, rfl, rfl, rfl, rfl, rfl, rfl, hrxoff⟩
  · exact ⟨rfl, rfl, rfl, rfl, rfl, rfl, rfl, rfl, rfl, rfl, rfl, htxoff, rfl⟩

end Sys2Proof.Machine

/-!
PROOFS. The engine's requests: how TRANSFER and the four composed calls begin (O17, O18), why they are refused (O19), and the
greedy split of a transfer into chunks (O30).
-/

namespace Sys2Proof.Machine

/-! ## The chunk due (R260-R262) -/

/-- The chunk due continues unless at most 255 bytes are left (R262). -/
theorem Call.dueCont_eq {c : Call} (hin : c.off < c.cur.len) :
    c.dueCont = if c.cur.len - c.off ≤ 255 then c.cur.cont else true := by
  have hlast : c.off + c.dueLen = c.cur.len ↔ c.cur.len - c.off ≤ 255 := by
    unfold Call.dueLen Config.chunkMax
    omega
  simp only [Call.dueCont, hlast]

/-- The chunk due inside a transfer whose buffer lies in the data memory: at its offset, without a wrap (R261, R274). -/
theorem Call.dueChunk_eq {p : Params} {c : Call} (hin : c.off < c.cur.len) (hmem : c.cur.buf + c.cur.len ≤ memTop p) :
    c.dueChunk p = .chunk c.addr c.cur.dir (c.cur.buf + c.off) (min 255 (c.cur.len - c.off))
      (if c.cur.len - c.off ≤ 255 then c.cur.cont else true) := by
  rw [Call.dueChunk, ptr_of_lt (by omega), Call.dueCont_eq hin]
  rfl

/-- Settles O30: the chunk due, at an offset that is a multiple of 255. -/
theorem greedySplit : Obligations.GreedySplit := by
  intro p c j hoff hin hmem
  rw [Call.dueChunk_eq hin hmem, hoff]

/-! ## How a request begins (R260, R265-R268) -/

/-- A call of one transfer that R264 gives no ground to refuse begins it. -/
theorem makeCall_refuseOne_begins {s : State} {buf len : Nat} (c : Call) (hlen : 1 ≤ len)
    (hmem : buf + len ≤ memTop s.cfg) (hidle : s.inFlight = false) :
    s.makeCall (refuseOne s buf len) c = .next (s.beginXfer c) := by
  rw [refuseOne_eq_none.mpr ⟨hlen, hmem, hidle⟩]
  rfl

/-- A call of two transfers that R264 gives no ground to refuse begins the first. -/
theorem makeCall_refuseTwo_begins {s : State} {buf len buf2 len2 : Nat} (c : Call) (hlen : 1 ≤ len)
    (hmem : buf + len ≤ memTop s.cfg) (hmem2 : buf2 + len2 ≤ memTop s.cfg) (hidle : s.inFlight = false) :
    s.makeCall (refuseTwo s buf len buf2 len2) c = .next (s.beginXfer c) := by
  rw [refuseTwo_eq_none.mpr ⟨hlen, hmem, hmem2, hidle⟩]
  rfl

theorem readBufOf_eq_ite (dir : Dir) (buf len : Nat) :
    readBufOf dir buf len = if dir = .R then some (buf, len) else none := by
  cases dir <;> rfl

/-- Settles O17: the call begins, and its chunk due is the one at offset 0. -/
theorem transferBegins : Obligations.TransferBegins := by
  intro addr dir buf len cont s hlen hmem hidle
  refine ⟨callOne addr ⟨dir, buf, len, cont⟩ (readBufOf dir buf len) .silent,
    makeCall_refuseOne_begins _ hlen hmem hidle, ?_, ?_⟩
  · rw [readBufOf_eq_ite]
    rfl
  · exact Call.dueChunk_eq hlen hmem

/-- Settles O18: each call passes the checks on its buffers and begins its first transfer. -/
theorem composedCallsBegin : Obligations.ComposedCallsBegin := by
  intro addr buf len buf2 len2 s hlen hmem hidle
  refine ⟨?_, ?_, fun hmem2 => ⟨?_, ?_⟩⟩
  · exact makeCall_refuseOne_begins _ hlen hmem hidle
  · exact makeCall_refuseOne_begins _ hlen hmem hidle
  · exact makeCall_refuseTwo_begins _ hlen hmem hmem2 hidle
  · exact makeCall_refuseTwo_begins _ hlen hmem hmem2 hidle

/-! ## Why a request is refused (R264) -/

section
variable {s : State} {buf len buf2 len2 : Nat}

theorem refuseOne_zeroLength (hlen : len = 0) : refuseOne s buf len = some .zeroLength := if_pos hlen

theorem refuseOne_bufferWraps (hlen : 1 ≤ len) (hmem : memTop s.cfg < buf + len) :
    refuseOne s buf len = some .bufferWraps := by
  rw [refuseOne, if_neg (by omega), if_pos (by simpa [bufferBad] using hmem)]

theorem refuseOne_concurrentCall (hlen : 1 ≤ len) (hmem : buf + len ≤ memTop s.cfg) (hbusy : s.inFlight = true) :
    refuseOne s buf len = some .concurrentCall := by
  rw [refuseOne, if_neg (by omega), if_neg (by simpa [bufferBad] using hmem), if_pos hbusy]

theorem refuseTwo_zeroLength (hlen : len = 0) : refuseTwo s buf len buf2 len2 = some .zeroLength := if_pos hlen

theorem refuseTwo_bufferWraps (hlen : 1 ≤ len) (hmem : memTop s.cfg < buf + len ∨ memTop s.cfg < buf2 + len2) :
    refuseTwo s buf len buf2 len2 = some .bufferWraps := by
  rw [refuseTwo, if_neg (by omega), if_pos (by simpa [bufferBad] using hmem)]

theorem refuseTwo_concurrentCall (hlen : 1 ≤ len) (hmem : buf + len ≤ memTop s.cfg) (hmem2 : buf2 + len2 ≤ memTop s.cfg)
    (hbusy : s.inFlight = true) : refuseTwo s buf len buf2 len2 = some .concurrentCall := by
  rw [refuseTwo, if_neg (by omega), if_neg (by simpa [bufferBad] using ⟨hmem, hmem2⟩), if_pos hbusy]

theorem State.makeCall_refused {why : Option Refusal} {r : Refusal} (c : Call) (h : why = some r) :
    s.makeCall why c = .refused r := by
  rw [h]
  rfl

/-- A client's request of one transfer is refused for what is wrong with its buffer. -/
theorem exec_oneTransfer_refused {addr : Addr7} {dir : Dir} {cont : Bool} {r : Refusal} {i : Instr}
    (hi : i ∈ [Instr.transfer addr dir buf len cont, .i2cRead addr buf len, .i2cWrite addr buf len])
    (h : refuseOne s buf len = some r) : exec i s = .refused r := by
  simp only [List.mem_cons, List.not_mem_nil, or_false] at hi
  obtain rfl | rfl | rfl := hi
  all_goals exact State.makeCall_refused _ h

/-- A client's request of two transfers is refused for what is wrong with its buffers. -/
theorem exec_twoTransfers_refused {addr : Addr7} {r : Refusal} {i : Instr}
    (hi : i ∈ [Instr.i2cWriteRead addr buf len buf2 len2, .i2cWriteWrite addr buf len buf2 len2])
    (h : refuseTwo s buf len buf2 len2 = some r) : exec i s = .refused r := by
  simp only [List.mem_cons, List.not_mem_nil, or_false] at hi
  obtain rfl | rfl := hi
  all_goals exact State.makeCall_refused _ h

end

/-! ## A transfer of no byte at its CONFIG (R264(a), log 34) -/

/-- At CONFIG the Shell's turn issues the chunk due (R200, R260). -/
theorem step_dueChunk {s : State} {c : Call} {d : Byte} {rest : List Choice} (h : Turn s .shell d rest)
    (hp : s.phase = .CONFIG) (hc : s.call = some c) :
    step s = exec (c.dueChunk s.cfg) (s.chosen .shell d rest) := by
  have hf : (s.chosen .shell d rest).fetch = some (c.dueChunk s.cfg) := by simp [State.fetch, State.shellInstr, hp, hc]
  rw [step_turn_instr h hf, State.accept_of_ne (by simp)]

/-- The engine's chunk of no byte is refused (R264(a)). -/
theorem exec_chunk_zeroLength {s : State} (hmove : s.now.move ≠ .client) (addr : Addr7) (dir : Dir) (buf : Nat)
    (cont : Bool) : exec (.chunk addr dir buf 0 cont) s = .refused .zeroLength := by
  simp only [exec, execChunk, State.fromOutside_eq_false hmove, Bool.false_eq_true, if_false, if_true]

/-- Settles O19: the reasons in the order of the checks; an empty phase issues a chunk of no byte. -/
theorem badRequestsRefused : Obligations.BadRequestsRefused := by
  intro addr dir buf len buf2 len2 cont s
  refine ⟨fun i hi => ⟨fun hlen => ?_, fun hlen hmem => ?_, fun hlen hmem hbusy => ?_⟩,
    fun i hi => ⟨fun hlen => ?_, fun hlen hmem => ?_, fun hlen hmem hmem2 hbusy => ?_⟩,
    fun c d rest hturn hphase hcall hempty => ?_⟩
  · exact exec_oneTransfer_refused hi (refuseOne_zeroLength hlen)
  · exact exec_oneTransfer_refused hi (refuseOne_bufferWraps hlen hmem)
  · exact exec_oneTransfer_refused hi (refuseOne_concurrentCall hlen hmem hbusy)
  · exact exec_twoTransfers_refused hi (refuseTwo_zeroLength hlen)
  · exact exec_twoTransfers_refused hi (refuseTwo_bufferWraps hlen hmem)
  · exact exec_twoTransfers_refused hi (refuseTwo_concurrentCall hlen hmem hmem2 hbusy)
  · have hdue : c.dueLen = 0 := by simp [Call.dueLen, hempty]
    rw [step_dueChunk hturn hphase hcall, Call.dueChunk, hdue]
    exact exec_chunk_zeroLength (by simp) _ _ _ _

end Sys2Proof.Machine

/-!
PROOFS. The byte streams are first-in first-out (O39).
-/

namespace Sys2Proof.Machine

/-- Places less than a round apart differ. -/
theorem mod_ne_of_lt_add {cap a b : Nat} (hab : a < b) (hb : b < a + cap) : a % cap ≠ b % cap := by
  intro h
  have hdvd : cap ∣ b - a := (Nat.modEq_iff_dvd' hab.le).mp h
  have hle := Nat.le_of_dvd (by omega) hdvd
  omega

/-- A put that is no longer than the buffer leaves each of its bytes at its place (R300). -/
theorem putBytes_getD_put {cap : Nat} (p : List Byte) {buf : List Byte} {w j : Nat} (hbuf : buf.length = cap)
    (hp : p.length ≤ cap) (hj : j < p.length) : (putBytes cap buf w p).getD ((w + j) % cap) 0 = p.getD j 0 := by
  induction p generalizing buf w j with
  | nil => simp at hj
  | cons b rest ih =>
    rw [List.length_cons] at hp hj
    cases j with
    | zero =>
      have hother (i) (hi : i < rest.length) : (w + 1 + i) % cap ≠ w % cap :=
        (mod_ne_of_lt_add (by omega) (by omega)).symm
      have hw : w % cap < buf.length := hbuf ▸ Nat.mod_lt w (by omega)
      rw [Nat.add_zero, putBytes, putBytes_getD_other cap _ _ rest _ hother]
      simp [List.getD, hw]
    | succ j =>
      rw [show w + (j + 1) = w + 1 + j by omega, putBytes, ih (by simpa using hbuf) (by omega) (by omega)]
      rfl

/-- Reading on after a get gives the bytes that follow (R301). -/
theorem ByteStream.peek_add (cap : Nat) (q : ByteStream) (k n : Nat) :
    q.peek cap (k + n) = q.peek cap k ++ (q.drop cap k).peek cap n := by
  simp only [ByteStream.peek, ByteStream.drop, List.range_add, List.map_append, List.map_map, Function.comp_def,
    Nat.mod_add_mod, Nat.add_assoc]

/-- A get gives the oldest bytes and leaves the others (R301). -/
theorem ByteStream.contents_eq_peek_append_drop (cap : Nat) (q : ByteStream) {k : Nat} (hk : k ≤ q.count) :
    q.contents cap = q.peek cap k ++ (q.drop cap k).contents cap := by
  have hcount : q.count = k + (q.count - k) := by omega
  rw [ByteStream.contents, hcount]
  exact ByteStream.peek_add cap q k _

/-- The bytes of a put that fits, read at their places. -/
theorem StreamOk.peek_put_new {cap : Nat} {q : ByteStream} {p : List Byte} (h : StreamOk cap q)
    (hfit : q.count + p.length ≤ cap) : ((q.put cap p).drop cap q.count).peek cap p.length = p := by
  obtain ⟨hbuf, -, -, hwr⟩ := h
  refine List.ext_getElem (by simp) fun j hj hjp => ?_
  have hplace : ((q.rd + q.count) % cap + j) % cap = (q.wr + j) % cap := by rw [hwr]
  simp only [ByteStream.peek, ByteStream.drop, ByteStream.put, List.getElem_map, List.getElem_range, hplace]
  rw [putBytes_getD_put p hbuf (by omega) hjp, List.getD_eq_getElem _ _ hjp]

/-- A put that fits keeps the bytes that are there. -/
theorem StreamOk.peek_put_old {cap : Nat} {q : ByteStream} {p : List Byte} (h : StreamOk cap q)
    (hfit : q.count + p.length ≤ cap) : (q.put cap p).peek cap q.count = q.contents cap := by
  obtain ⟨-, -, -, hwr⟩ := h
  refine List.map_congr_left fun i hi => putBytes_getD_other cap _ _ p _ fun j hj => ?_
  have hi : i < q.count := List.mem_range.mp hi
  have hrd : (q.put cap p).rd = q.rd := rfl
  rw [hwr, Nat.mod_add_mod, hrd]
  exact (mod_ne_of_lt_add (by omega) (by omega)).symm

/-- A put that fits appends its bytes (R300). -/
theorem StreamOk.contents_put {cap : Nat} {q : ByteStream} {p : List Byte} (h : StreamOk cap q)
    (hfit : q.count + p.length ≤ cap) : (q.put cap p).contents cap = q.contents cap ++ p := by
  have hadd : (q.put cap p).contents cap
      = (q.put cap p).peek cap q.count ++ ((q.put cap p).drop cap q.count).peek cap p.length :=
    ByteStream.peek_add cap _ q.count p.length
  rw [hadd, h.peek_put_old hfit, h.peek_put_new hfit]

/-- Settles O39: what a put appends, and how a get splits the contents. -/
theorem streamIsFifo : Obligations.StreamIsFifo := by
  intro cap q h
  refine ⟨fun p hfit => ⟨h.put hfit, h.contents_put hfit⟩, fun k hk => ⟨h.drop hk, ?_, ?_⟩⟩
  · rw [q.contents_eq_peek_append_drop cap hk, List.take_left' (ByteStream.peek_length cap q k)]
  · rw [q.contents_eq_peek_append_drop cap hk, List.drop_left' (ByteStream.peek_length cap q k)]

end Sys2Proof.Machine

/-!
PROOFS. The servicing task and the host, one step each: what handling an event does, which event a POLL step handles, and the
other steps of a round (O40-O42).
-/

namespace Sys2Proof.Machine

/-! ## What handling an event does (R309, R313, R314, R330) -/

/-- A pull queues the oldest bytes, as many as a packet takes (R330). -/
theorem State.pull_outcome {t : State} (hmps : 1 ≤ t.cfg.mps) : PullOutcome t t.pull := by
  refine ⟨fun ⟨p, hbusy⟩ => ?_, fun hfree hempty => ?_, fun hfree hcount => ?_⟩
  · simp [State.pull, hbusy]
  · simp [State.pull, hfree, hempty]
  · have hn : min t.outs.count t.cfg.mps ≠ 0 := by omega
    have hfull : (min t.outs.count t.cfg.mps == t.cfg.mps) = decide (t.cfg.mps ≤ t.outs.count) :=
      decide_eq_decide.mpr min_eq_right_iff
    have hpull : t.pull = { t with
        outs := t.outs.drop t.cfg.capOut (min t.outs.count t.cfg.mps)
        usb := { t.usb with
          epIn := .Busy (t.outs.peek t.cfg.capOut (min t.outs.count t.cfg.mps))
          sending := decide (t.cfg.mps ≤ t.outs.count) } } := by
      simp [State.pull, hfree, hn, hfull]
    rw [hpull]
    exact ⟨_, rfl, ByteStream.peek_length _ _ _, t.outs.contents_eq_peek_append_drop _ (Nat.min_le_left _ _)⟩

/-- A packet that fits is appended, and the endpoint held off where another would not fit (R309). -/
theorem outRxStep_outcome {t : State} (hins : StreamOk t.cfg.capIn t.ins)
    (hfit : ∀ p, t.usb.epOut = .Full p → t.ins.count + p.length ≤ t.cfg.capIn) : OutOutcome t (outRxStep t) := by
  refine ⟨fun p hfull => ?_, fun hno => ?_⟩
  · have hput := hins.contents_put (hfit p hfull)
    by_cases hroom : t.cfg.capIn - (t.ins.put t.cfg.capIn p).count < t.cfg.mps
    · have hstep : outRxStep t = { t with
          ins := t.ins.put t.cfg.capIn p, usb := { t.usb with epOut := .Nak, receiving := false } } := by
        simp [outRxStep, hfull, hroom]
      rw [hstep]
      exact ⟨rfl, hput, fun _ => ⟨rfl, rfl⟩, fun hle => absurd hroom (Nat.not_lt.mpr hle)⟩
    · have hstep : outRxStep t = { t with
          ins := t.ins.put t.cfg.capIn p, usb := { t.usb with epOut := .Valid } } := by
        simp [outRxStep, hfull, hroom]
      rw [hstep]
      exact ⟨rfl, hput, fun hlt => absurd hlt hroom, fun _ => ⟨rfl, rfl⟩⟩
  · cases hep : t.usb.epOut with
    | Full p => exact absurd hep (hno p)
    | _ => simp [outRxStep, hep]

/-- The transport leaves room for the packet that the OUT endpoint holds (R311). -/
theorem TransportOk.packet_fits {t : State} (h : TransportOk t) {p : List Byte} (hfull : t.usb.epOut = .Full p) :
    t.ins.count + p.length ≤ t.cfg.capIn := by
  have hreceiving : t.usb.receiving = true := h.receiving (by simp [hfull])
  obtain ⟨-, -, -, ⟨-, -, hcount, -⟩, -, hroom, -, hlen, -⟩ := h
  have hroom : t.cfg.mps ≤ t.cfg.capIn - t.ins.count := hroom hreceiving
  have hlen : p.length ≤ t.cfg.mps := by simpa [hfull, epOutFits] using hlen
  omega

/-- Each event is handled by its own rule (R307). -/
theorem TransportOk.handleEvent_outcome {t : State} (h : TransportOk t) (x : UsbEvent) :
    EventOutcome x t (handleEvent x t) := by
  obtain ⟨hmps, -, -, hins, -⟩ := id h
  cases x with
  | outRx => exact outRxStep_outcome hins fun _ => h.packet_fits
  | inDone => exact State.pull_outcome hmps
  | ctrl => rfl

/-! ## The event that a POLL step handles (R307, log 27) -/

theorem Events.remove_eq_eventsWithout (e : Events) (x : UsbEvent) : e.remove x = eventsWithout e x := by
  cases x <;> rfl

theorem Events.mem_toList_iff {e : Events} {x : UsbEvent} : x ∈ e.toList ↔ Waits e x := by
  cases x <;> simp [Events.toList, Waits]

/-- Under the transport's invariant every event that waits can be handled. -/
theorem TransportOk.mem_readyEvents_iff {s : State} (h : TransportOk s) {x : UsbEvent} :
    x ∈ s.readyEvents ↔ Waits s.usb.events x := by
  have hready : s.eventReady x = true := by
    cases x with
    | outRx => exact State.eventReady_outRx_iff.mpr fun _ => h.packet_fits
    | _ => rfl
  rw [State.readyEvents, List.mem_filter, Events.mem_toList_iff, and_iff_left hready]

theorem exists_waits {e : Events} (h : e ≠ ⟨false, false, false⟩) : ∃ x, Waits e x := by
  have hany : (e.outRx = true ∨ e.inDone = true) ∨ e.ctrl = true := by simpa [Events.any] using Events.any_iff.mpr h
  obtain (hout | hin) | hctrl := hany
  · exact ⟨.outRx, hout⟩
  · exact ⟨.inDone, hin⟩
  · exact ⟨.ctrl, hctrl⟩

/-- The set of one event. -/
def onlyEvent : UsbEvent → Events
  | .outRx => ⟨true, false, false⟩
  | .inDone => ⟨false, true, false⟩
  | .ctrl => ⟨false, false, true⟩

theorem onlyEvent_ne_empty (x : UsbEvent) : onlyEvent x ≠ ⟨false, false, false⟩ := by cases x <;> decide

theorem waits_onlyEvent_iff {x y : UsbEvent} : Waits (onlyEvent x) y ↔ y = x := by
  cases x <;> cases y <;> simp [Waits, onlyEvent]

theorem eventsWithout_onlyEvent (x : UsbEvent) : eventsWithout (onlyEvent x) x = ⟨false, false, false⟩ := by
  cases x <;> rfl

/-- At most three events wait. -/
theorem State.readyEvents_length_le (s : State) : s.readyEvents.length ≤ 3 := by
  refine (List.length_filter_le _ _).trans ?_
  obtain ⟨outRx, inDone, ctrl⟩ := s.usb.events
  revert outRx inDone ctrl
  decide

/-- The draw picks an event wherever one is ready. -/
theorem exists_chooseEvent {s : State} (hne : s.readyEvents ≠ []) : ∃ x ∈ s.readyEvents, s.chooseEvent = some x :=
  ⟨_, List.getElem_mem _, List.getElem?_eq_getElem (Nat.mod_lt _ (List.length_pos_iff.mpr hne))⟩

/-- Some draw picks each event that is ready. -/
theorem exists_draw_chooseEvent {s : State} {x : UsbEvent} (hx : x ∈ s.readyEvents) (rest : List Choice) :
    ∃ d : Byte, (s.chosen .usbSvc d rest).chooseEvent = some x := by
  obtain ⟨i, hi, hget⟩ := List.getElem_of_mem hx
  have hlen := s.readyEvents_length_le
  have hdraw : (BitVec.ofNat 8 i).toNat % s.readyEvents.length = i := by
    rw [BitVec.toNat_ofNat, Nat.mod_eq_of_lt (show i < 2 ^ 8 by omega), Nat.mod_eq_of_lt hi]
  have hpick : s.readyEvents[(BitVec.ofNat 8 i).toNat % s.readyEvents.length]? = some x := by
    rw [hdraw, List.getElem?_eq_getElem hi, hget]
  exact ⟨BitVec.ofNat 8 i, hpick⟩

/-! ## The steps of a round (R305) -/

/-- The state in which a POLL step handles an event: the event is taken out of the set (R307). -/
def State.handling (s : State) (x : UsbEvent) : State :=
  { s with usb := { s.usb with events := eventsWithout s.usb.events x } }

theorem pollStep_of_chooseEvent {s : State} {x : UsbEvent} (h : s.chooseEvent = some x) :
    pollStep s = handleEvent x (s.handling x) := by
  simp only [pollStep, h, Events.remove_eq_eventsWithout]
  rfl

section
variable {s : State} {d : Byte} {rest : List Choice}

theorem step_svc (h : Turn s .usbSvc d rest) (hm : MayMove s .usbSvc) :
    step s = .next (svcStep (s.chosen .usbSvc d rest)) := step_of_mayMove h rfl hm

/-- A POLL step handles the event that the draw picks (R307). -/
theorem step_of_chooseEvent {x : UsbEvent} (h : Turn s .usbSvc d rest) (hpoll : s.usb.taken.poll = true)
    (hx : (s.chosen .usbSvc d rest).chooseEvent = some x) :
    step s = .next (handleEvent x ((s.chosen .usbSvc d rest).handling x)) := by
  have hready : s.readyEvents ≠ [] := List.ne_nil_of_mem (List.mem_of_getElem? hx)
  have hm : MayMove s .usbSvc := State.svcEnabled_iff.mp (by simp [State.svcEnabled, hpoll, hready])
  rw [step_svc h hm, svcStep, State.chosen_usb, if_pos hpoll, pollStep_of_chooseEvent hx]

/-- The event that the draw picks is handled by its own rule. -/
theorem TransportOk.handling_outcome (ht : TransportOk s) (x : UsbEvent) :
    EventOutcome x ((s.chosen .usbSvc d rest).handling x) (handleEvent x ((s.chosen .usbSvc d rest).handling x)) :=
  TransportOk.handleEvent_outcome (t := (s.chosen .usbSvc d rest).handling x) ht x

/-- A POLL that finds any event handles one that waits, by its own rule, and removes only that one (R307). -/
theorem TransportOk.step_poll_outcome (ht : TransportOk s) (h : Turn s .usbSvc d rest) (hpoll : s.usb.taken.poll = true)
    (hne : s.usb.events ≠ ⟨false, false, false⟩) :
    ∃ x u, Waits s.usb.events x ∧ step s = .next u ∧ EventOutcome x ((s.chosen .usbSvc d rest).handling x) u := by
  obtain ⟨y, hy⟩ := exists_waits hne
  have hready : s.readyEvents ≠ [] := List.ne_nil_of_mem (ht.mem_readyEvents_iff.mpr hy)
  obtain ⟨x, hx, hpick⟩ := exists_chooseEvent (s := s.chosen .usbSvc d rest) hready
  exact ⟨x, _, ht.mem_readyEvents_iff.mp hx, step_of_chooseEvent h hpoll hpick, ht.handling_outcome x⟩

/-- An event that alone waits is the one handled, and none is left. -/
theorem TransportOk.step_poll_only (x : UsbEvent) (ht : TransportOk s) (h : Turn s .usbSvc d rest)
    (hpoll : s.usb.taken.poll = true) (hev : s.usb.events = onlyEvent x) :
    ∃ u, step s = .next u ∧
      EventOutcome x { s.chosen .usbSvc d rest with usb := { s.usb with events := ⟨false, false, false⟩ } } u := by
  have hne : s.usb.events ≠ ⟨false, false, false⟩ := hev ▸ onlyEvent_ne_empty x
  obtain ⟨y, u, hy, hstep, hu⟩ := ht.step_poll_outcome h hpoll hne
  obtain rfl : y = x := waits_onlyEvent_iff.mp (hev ▸ hy)
  refine ⟨u, hstep, ?_⟩
  rwa [State.handling, State.chosen_usb, hev, eventsWithout_onlyEvent] at hu

/-- Some draw handles each event that waits, whatever others do (R307, log 27). -/
theorem TransportOk.exists_draw_step_poll (x : UsbEvent) (ht : TransportOk s) (hcfg : configRefusal s.cfg = none)
    (hpoll : s.usb.taken.poll = true) (hx : Waits s.usb.events x) (rest : List Choice) :
    ∃ d u, step { s with sched := ⟨.usbSvc, d⟩ :: rest } = .next u ∧
      EventOutcome x ((s.chosen .usbSvc d rest).handling x) u := by
  obtain ⟨d, hd⟩ := exists_draw_chooseEvent (ht.mem_readyEvents_iff.mpr hx) rest
  exact ⟨d, _, step_of_chooseEvent ⟨rfl, hcfg⟩ hpoll hd, ht.handling_outcome x⟩

/-- The kick: SEND_RESUME alone was taken (R331). -/
theorem step_kick (h : Turn s .usbSvc d rest) (htaken : s.usb.taken = ⟨false, false, true⟩) :
    step s = .next (sendResumeStep (s.chosen .usbSvc d rest)) := by
  have hm : MayMove s .usbSvc := by simp [MayMove, htaken]
  simp [step_svc h hm, svcStep, htaken]

theorem step_recvResume (h : Turn s .usbSvc d rest) (hpoll : s.usb.taken.poll = false)
    (hrecv : s.usb.taken.recvResume = true) : step s = .next (recvResumeStep (s.chosen .usbSvc d rest)) := by
  have hm : MayMove s .usbSvc := State.svcEnabled_iff.mp (by simp [State.svcEnabled, Pending.any, hpoll, hrecv])
  simp [step_svc h hm, svcStep, hpoll, hrecv]

/-- A POLL that finds no event ends (R307). -/
theorem step_pollEnd (h : Turn s .usbSvc d rest) (hpoll : s.usb.taken.poll = true)
    (hnone : s.usb.events = ⟨false, false, false⟩) : step s = .next (pollEnd (s.chosen .usbSvc d rest)) := by
  have hm : MayMove s .usbSvc := by simp [MayMove, hpoll, hnone]
  simp [step_svc h hm, svcStep, hpoll, pollStep, State.chooseEvent, State.readyEvents, Events.toList, Events.any, hnone]

end

/-- Settles O40: the kick's step by `sending`, and the POLL's by the event it handles. -/
theorem pullQueuesPacket : Obligations.PullQueuesPacket := by
  intro s d rest h ht
  obtain ⟨hmps, -⟩ := id ht
  refine ⟨fun htaken hsending => ?_, fun htaken hsending => ?_, fun hpoll hev => ?_, fun hpoll hev => ?_,
    fun hpoll hin => ?_, fun hpoll hctrl => ?_⟩
  · simp [step_kick h htaken, sendResumeStep, hsending, htaken]
  · refine ⟨_, step_kick h htaken, ?_⟩
    simp only [sendResumeStep, State.chosen_usb, hsending, htaken, Bool.false_eq_true, if_false]
    exact State.pull_outcome hmps
  · exact ht.step_poll_only .inDone h hpoll hev
  · obtain ⟨u, hstep, rfl⟩ := ht.step_poll_only .ctrl h hpoll hev
    exact hstep
  · exact ht.exists_draw_step_poll .inDone h.2 hpoll hin rest
  · obtain ⟨d', u, hstep, rfl⟩ := ht.exists_draw_step_poll .ctrl h.2 hpoll hctrl rest
    exact ⟨d', hstep⟩

/-- Settles O41: a packet that does not fit keeps the servicing task from moving, and under the transport's invariant there is
none such; a recv-resume by the room there is. -/
theorem outPacketAndResume : Obligations.OutPacketAndResume := by
  refine ⟨fun s d rest p h hpoll hev hfull hover => ?_, fun s d rest h ht => ⟨fun hpoll hev => ?_, fun hpoll hout => ?_,
    fun hpoll hrecv => ⟨fun hheld hroom => ?_, fun hno => ?_⟩⟩⟩
  · refine step_of_not_mayMove h fun hm => ?_
    have hfits : s.ins.count + p.length ≤ s.cfg.capIn := by simpa [MayMove, hpoll, hev, hfull] using hm
    omega
  · exact ht.step_poll_only .outRx h hpoll hev
  · exact ht.exists_draw_step_poll .outRx h.2 hpoll hout rest
  · rw [step_recvResume h hpoll hrecv, recvResumeStep]
    exact congrArg _ (if_pos ⟨hheld, hroom⟩)
  · rw [step_recvResume h hpoll hrecv, recvResumeStep]
    refine congrArg _ (if_neg fun ⟨hheld, hroom⟩ => ?_)
    obtain hreceiving | hfull := hno
    · exact nomatch hreceiving.symm.trans hheld
    · exact absurd hroom (Nat.not_le.mpr hfull)

/-- Settles O42: the servicing task's step by what it took and what waits, and each of the host's moves. -/
theorem usbRoundAndHostMoves : Obligations.UsbRoundAndHostMoves := by
  intro s d rest
  refine ⟨fun h htaken hpending => ?_, fun h hpoll hnone => ?_, fun p ps h htx hlen => ⟨fun hvalid => ?_, fun hno => ?_⟩,
    fun p h hbusy => ?_, fun h ht hpoll hne => ?_, fun h => ?_⟩
  · have hm : MayMove s .usbSvc := by simp [MayMove, htaken, hpending]
    simp [step_svc h hm, svcStep, takeAllStep, htaken, Pending.empty]
  · rw [step_pollEnd h hpoll hnone]
    rfl
  · rw [step_of_mayMove h rfl ⟨hvalid, p, ps, htx, hlen⟩]
    simp [act, hostOutStep, htx]
  · exact step_of_not_mayMove h fun hm => hno hm.1
  · rw [step_of_mayMove h rfl ⟨p, hbusy⟩]
    simp [act, hostInStep, hbusy]
  · exact ht.step_poll_outcome h hpoll hne
  · exact step_of_mayMove h rfl trivial

end Sys2Proof.Machine

/-!
PROOFS. The Shell's loop, one step each: recv with the line's assembly (O43), and send (O44).
-/

namespace Sys2Proof.Machine

/-- A loop step of the Shell, where it reads or replies and may move (R303, R304). -/
theorem step_shellLoop {s : State} {d : Byte} {rest : List Choice} (h : Turn s .shell d rest) (hidle : s.phase = .IDLE)
    (hpos : s.sh.pos ≠ .DISPATCH) (hm : MayMove s .shell) :
    step s = .next (shellLoopStep (s.chosen .shell d rest)) := by
  have hf : (s.chosen .shell d rest).fetch = none := by simp [State.fetch, State.shellInstr, hidle, hpos]
  rw [step_of_mayMove h hf hm]
  exact if_pos hidle

/-! ## recv and the line's assembly (R303, R371-R373) -/

theorem isTerminator_iff {c : Byte} : isTerminator c = true ↔ c = 0x0D ∨ c = 0x0A := by simp [isTerminator]

theorem isPrintable_iff {c : Byte} : isPrintable c = true ↔ 0x20 ≤ c.toNat ∧ c.toNat ≤ 0x7E := by simp [isPrintable]

theorem isPrintable_of_isTerminator {c : Byte} (h : isTerminator c = true) : isPrintable c = false := by
  obtain rfl | rfl := isTerminator_iff.mp h <;> rfl

/-- A printable byte goes to the line, any other leaves it (R371-R373). -/
theorem recvPostStep_line (c : Byte) (s : State) :
    (recvPostStep c s).sh.line = if isPrintable c then s.sh.line.append s.cfg.lineCap c else s.sh.line := by
  unfold recvPostStep handleByte
  split
  · rename_i hterm
    rw [isPrintable_of_isTerminator hterm]
    split <;> rfl
  · split <;> rfl

/-- A terminator after a nonempty line begins its dispatch (R371). -/
theorem recvPostStep_pos (c : Byte) (s : State) :
    (recvPostStep c s).sh.pos = if isTerminator c = true ∧ 0 < s.sh.line.len then .DISPATCH else s.sh.pos := by
  unfold recvPostStep handleByte
  by_cases hterm : isTerminator c = true
  · by_cases hlen : 0 < s.sh.line.len <;> simp [hterm, hlen]
  · simp only [hterm, if_false, false_and, Bool.false_eq_true]
    split <;> rfl

/-- Settles O43: recv's first step by what is in the stream, its second by the byte. -/
theorem lineAssembly : Obligations.LineAssembly := by
  refine ⟨fun s d rest h hidle hread hnone => ⟨fun hempty => ?_, fun hcount => ?_⟩,
    fun s c d rest h hidle hread hc => ?_⟩
  · refine step_of_not_mayMove h fun hm => ?_
    simp [MayMove, hidle, hread, hnone, hempty] at hm
  · have hstep : step s = .next (recvTakeStep (s.chosen .shell d rest)) := by
      rw [step_shellLoop h hidle (by simp [hread]) (by simp [MayMove, hidle, hread, hcount])]
      simp [shellLoopStep, hread, hnone]
    exact ⟨_, _, hstep, rfl, s.ins.contents_eq_peek_append_drop _ hcount, Nat.sub_add_cancel hcount⟩
  · have hstep : step s = .next (recvPostStep c (s.chosen .shell d rest)) := by
      rw [step_shellLoop h hidle (by simp [hread]) (by simp [MayMove, hidle, hread, hc])]
      simp [shellLoopStep, hread, hc]
    have hpos := recvPostStep_pos c (s.chosen .shell d rest)
    have hline := recvPostStep_line c (s.chosen .shell d rest)
    rw [State.chosen_sh] at hpos hline
    refine ⟨_, hstep, ?_, ?_, ?_, fun hterm => ⟨?_, fun hlen => ?_, fun hlen => ?_⟩, fun hterm => ?_,
      fun hlo hhi hroom => ?_, fun hlo hhi hfull => ?_, fun hout => ?_⟩
    · rw [recvPostStep_eq]
      rfl
    · rw [recvPostStep_eq]
      rfl
    · rw [recvPostStep_eq]
      simp [Pending.union]
    · rw [hline, isPrintable_of_isTerminator (isTerminator_iff.mpr hterm)]
      rfl
    · rw [hpos, if_pos ⟨isTerminator_iff.mpr hterm, hlen⟩]
    · rw [hpos, if_neg (by omega), hread]
    · rw [hpos, if_neg fun hdis => hterm (isTerminator_iff.mp hdis.1), hread]
    · rw [hline, if_pos (isPrintable_iff.mpr ⟨hlo, hhi⟩)]
      exact if_pos hroom
    · rw [hline, if_pos (isPrintable_iff.mpr ⟨hlo, hhi⟩)]
      exact if_neg (Nat.not_lt.mpr hfull)
    · have hno : ¬ isPrintable c = true := fun hprint => by
        have := isPrintable_iff.mp hprint
        omega
      rw [hline, if_neg hno]

/-! ## send (R304) -/

/-- What send's step A puts fits (R304). -/
theorem take_fits {cap count : Nat} (hcount : count ≤ cap) (bs : List Byte) :
    count + (bs.take (min bs.length (cap - count))).length ≤ cap := by
  rw [List.length_take]
  omega

/-- Settles O44: step A by the room there is, step B by what is left to put. -/
theorem sendSteps : Obligations.SendSteps := by
  intro s d rest h ht hidle hrep
  obtain ⟨-, -, -, -, houts, -⟩ := ht
  obtain ⟨-, -, hcount, -⟩ := id houts
  refine ⟨fun hatA hfull => ?_, fun hatA hroom => ?_, fun hatB => ?_⟩
  · refine step_of_not_mayMove h fun hm => ?_
    simp [MayMove, hidle, hrep, hatA, hfull] at hm
  · have hstep : step s = .next (sendPutStep (s.chosen .shell d rest)) := by
      rw [step_shellLoop h hidle (by simp [hrep]) (by simp [MayMove, hidle, hrep, hroom])]
      simp [shellLoopStep, hrep, hatA]
    exact ⟨_, _, hstep, rfl, rfl, houts.contents_put (take_fits hcount _)⟩
  · have hstep : step s = .next (sendPostStep (s.chosen .shell d rest)) := by
      rw [step_shellLoop h hidle (by simp [hrep]) (by simp [MayMove, hidle, hrep, hatB])]
      simp [shellLoopStep, hrep, hatB]
    refine ⟨_, hstep, ?_, ?_, fun hmore => ?_, fun hlast => ?_⟩
    · rw [sendPostStep_eq]
      rfl
    · rw [sendPostStep_eq]
      simp [Pending.union]
    · simp [sendPostStep, hmore]
    · simp [sendPostStep, hlast, endDispatch]

end Sys2Proof.Machine

/-!
PROOFS. The codecs of a line's tokens: hex text and its bytes (O2, O3), decimal lengths (O4), addresses (O5).
-/

namespace Sys2Proof

/-! ## Hex digits (R376, R378) -/

theorem hexDigit_of_isHexChar {c : Byte} (h : IsHexChar c) : hexDigit c = some (hexVal c) := by
  obtain hdec | hlow := h
  · rw [hexDigit, if_pos hdec, hexVal, if_pos hdec.2]
  · have hnot : ¬ c.toNat ≤ 0x39 := by omega
    rw [hexDigit, if_neg (fun hdec => hnot hdec.2), if_pos hlow, hexVal, if_neg hnot]

theorem hexDigit_of_not_isHexChar {c : Byte} (h : ¬ IsHexChar c) : hexDigit c = none := by
  rw [hexDigit, if_neg (fun hdec => h (.inl hdec)), if_neg (fun hlow => h (.inr hlow))]

/-- `h` is defined exactly on the hex digits (R376). -/
theorem hexDigit_eq_some_iff {c : Byte} {v : Nat} : hexDigit c = some v ↔ IsHexChar c ∧ hexVal c = v := by
  by_cases h : IsHexChar c
  · simp [hexDigit_of_isHexChar h, h]
  · simp [hexDigit_of_not_isHexChar h, h]

theorem hexVal_lt {c : Byte} (h : IsHexChar c) : hexVal c < 16 := by
  unfold IsHexChar at h
  unfold hexVal
  split <;> omega

/-- A hex digit is the digit of its value: no value has a second one (R167). -/
theorem hexChar_hexVal {c : Byte} (h : IsHexChar c) : hexChar (hexVal c) = c := by
  apply BitVec.eq_of_toNat_eq
  obtain hdec | hlow := h
  · have hval : hexVal c = c.toNat - 0x30 := if_pos hdec.2
    rw [hval, hexChar, if_pos (by omega), BitVec.toNat_ofNat]
    omega
  · have hval : hexVal c = c.toNat - 0x61 + 10 := if_neg (by omega)
    rw [hval, hexChar, if_neg (by omega), BitVec.toNat_ofNat]
    omega

/-- The digit of a nibble is a hex digit of its value (R378). -/
theorem isHexChar_hexChar {v : Nat} (h : v < 16) : IsHexChar (hexChar v) ∧ hexVal (hexChar v) = v :=
  hexDigit_eq_some_iff.mp (hexDigit_hexChar v h)

/-! ## Hex text (R377, R378, R381) -/

/-- A byte of two nibbles is encoded by their digits. -/
theorem hexEncode_byte {h l : Nat} (hh : h < 16) (hl : l < 16) (bs : List Byte) :
    hexEncode (BitVec.ofNat 8 (16 * h + l) :: bs) = hexChar h :: hexChar l :: hexEncode bs := by
  have hbyte : (BitVec.ofNat 8 (16 * h + l)).toNat = 16 * h + l := by rw [BitVec.toNat_ofNat]; omega
  rw [hexEncode_cons, hbyte, show (16 * h + l) / 16 = h by omega, show (16 * h + l) % 16 = l by omega]

/-- Every text of hex digits of even length encodes some bytes. -/
theorem exists_hexEncode_eq {t : List Byte} {n : Nat} (hlen : t.length = 2 * n) (h : ∀ c ∈ t, IsHexChar c) :
    ∃ b, b.length = n ∧ hexEncode b = t := by
  induction n generalizing t with
  | zero => exact ⟨[], rfl, (List.length_eq_zero_iff.mp hlen).symm⟩
  | succ n ih =>
    obtain ⟨hi, t, rfl⟩ := List.exists_cons_of_length_pos (l := t) (by omega)
    obtain ⟨lo, rest, rfl⟩ := List.exists_cons_of_length_pos (l := t) (by simp only [List.length_cons] at hlen; omega)
    simp only [List.forall_mem_cons] at h
    obtain ⟨hhi, hlo, hrest⟩ := h
    obtain ⟨b, rfl, rfl⟩ := ih (by simp only [List.length_cons] at hlen; omega) hrest
    refine ⟨BitVec.ofNat 8 (16 * hexVal hi + hexVal lo) :: b, rfl, ?_⟩
    rw [hexEncode_byte (hexVal_lt hhi) (hexVal_lt hlo), hexChar_hexVal hhi, hexChar_hexVal hlo]

/-- The bytes of a text of digit pairs are those that the text encodes: decoding takes nothing but encodings. -/
theorem hexPairs_eq_some_iff {t b : List Byte} : hexPairs t = some b ↔ hexEncode b = t := by
  refine ⟨fun h => ?_, fun h => h ▸ hexPairs_hexEncode b⟩
  induction t using hexPairs.induct generalizing b with
  | case1 => obtain rfl := Option.some.inj h; rfl
  | case2 c => cases h
  | case3 hi lo rest vh vl bs hrest hlo hhi ih =>
    simp only [hexPairs, hhi, hlo, hrest, Option.some.injEq] at h
    obtain ⟨hcharh, rfl⟩ := hexDigit_eq_some_iff.mp hhi
    obtain ⟨hcharl, rfl⟩ := hexDigit_eq_some_iff.mp hlo
    rw [← h, hexEncode_byte (hexVal_lt hcharh) (hexVal_lt hcharl), hexChar_hexVal hcharh, hexChar_hexVal hcharl, ih hrest]
  | case4 hi lo rest hbad ih =>
    simp only [hexPairs, reduceCtorEq] at h

/-- `hexdecode(t, n)` gives the n bytes that t encodes. -/
theorem hexDecode_eq_some_iff {t b : List Byte} {n : Nat} :
    hexDecode t n = some b ↔ b.length = n ∧ hexEncode b = t := by
  constructor
  · intro h
    unfold hexDecode at h
    split at h
    · rename_i hlen
      obtain rfl := hexPairs_eq_some_iff.mp h
      rw [hexEncode_length] at hlen
      exact ⟨by omega, rfl⟩
    · cases h
  · rintro ⟨rfl, rfl⟩
    exact hexDecode_hexEncode b

/-- Settles O2: a text of hex digits is the encoding of some bytes, which decoding gives back. -/
theorem hexRoundTrip : Obligations.HexRoundTrip := by
  refine ⟨hexDecode_hexEncode, fun t heven hhex => ?_⟩
  have hchar (c : Byte) (hc : c ∈ t) : IsHexChar c := by_contra fun hno => hhex c hc (hexDigit_of_not_isHexChar hno)
  obtain ⟨b, hlen, hb⟩ := exists_hexEncode_eq (n := t.length / 2) (by omega) hchar
  exact ⟨b, hexDecode_eq_some_iff.mpr ⟨hlen, hb⟩, hb⟩

theorem isHexChar_of_mem_hexEncode {b : List Byte} {c : Byte} (h : c ∈ hexEncode b) : IsHexChar c := by
  obtain ⟨v, -, hc⟩ := List.mem_flatMap.mp h
  obtain ⟨hhi, hlo⟩ := nibbles_lt v
  simp only [List.mem_cons, List.not_mem_nil, or_false] at hc
  obtain rfl | rfl := hc
  · exact (isHexChar_hexChar hhi).1
  · exact (isHexChar_hexChar hlo).1

/-- The two digits of the k-th byte (R378). -/
theorem hexEncode_getD {b : List Byte} {k : Nat} (h : k < b.length) :
    (hexEncode b).getD (2 * k) 0 = hexChar ((b.getD k 0).toNat / 16) ∧
      (hexEncode b).getD (2 * k + 1) 0 = hexChar ((b.getD k 0).toNat % 16) := by
  induction b generalizing k with
  | nil => cases h
  | cons v b ih =>
    cases k with
    | zero => exact ⟨rfl, rfl⟩
    | succ k => exact ih (Nat.lt_of_succ_lt_succ h)

/-- Settles O3: decoding gives what its text encodes, and every text of n digit pairs encodes n bytes. -/
theorem hexDecodeFailsExactly : Obligations.HexDecodeFailsExactly := by
  refine ⟨fun c => ⟨hexDigit_of_isHexChar, hexDigit_of_not_isHexChar⟩,
    fun t n => ⟨⟨fun h => ?_, fun h => ?_⟩, fun b h => ?_⟩⟩
  · by_contra hno
    simp only [not_or, not_not, not_exists, not_and] at hno
    obtain ⟨hlen, hhex⟩ := hno
    obtain ⟨b, hb⟩ := exists_hexEncode_eq hlen hhex
    exact nomatch h.symm.trans (hexDecode_eq_some_iff.mpr hb)
  · refine Option.eq_none_iff_forall_ne_some.mpr fun b hb => ?_
    obtain ⟨rfl, rfl⟩ := hexDecode_eq_some_iff.mp hb
    obtain hlen | ⟨c, hc, hno⟩ := h
    · exact hlen (hexEncode_length b)
    · exact hno (isHexChar_of_mem_hexEncode hc)
  · obtain ⟨rfl, rfl⟩ := hexDecode_eq_some_iff.mp h
    refine ⟨rfl, fun k hk => ?_⟩
    obtain ⟨hhi, hlo⟩ := hexEncode_getD hk
    obtain ⟨hhilt, hlolt⟩ := nibbles_lt (b.getD k 0)
    rw [hhi, hlo, (isHexChar_hexChar hhilt).2, (isHexChar_hexChar hlolt).2, Nat.div_add_mod]

/-! ## Decimal lengths (R379) -/

theorem isDecDigit_iff {c : Byte} : isDecDigit c = true ↔ 0x30 ≤ c.toNat ∧ c.toNat ≤ 0x39 := by simp [isDecDigit]

/-- One more digit at the end. -/
theorem decValue_concat (t : List Byte) (c : Byte) : decValue (t ++ [c]) = 10 * decValue t + (c.toNat - 0x30) := by
  simp [decValue]

/-- The number that digits spell, as R379's sum. -/
theorem decValue_eq_sum (t : List Byte) : decValue t
    = ((List.range t.length).map (fun j => ((t.getD j 0).toNat - 0x30) * 10 ^ (t.length - 1 - j))).sum := by
  induction t using List.reverseRecOn with
  | nil => rfl
  | append_singleton t c ih =>
    have hshift : (List.range t.length).map
          (fun j => (((t ++ [c]).getD j 0).toNat - 0x30) * 10 ^ (t.length + 1 - 1 - j))
        = (List.range t.length).map (fun j => 10 * (((t.getD j 0).toNat - 0x30) * 10 ^ (t.length - 1 - j))) := by
      refine List.map_congr_left fun j hj => ?_
      have hlt : j < t.length := List.mem_range.mp hj
      rw [List.getD_append _ _ _ _ hlt, show t.length + 1 - 1 - j = t.length - 1 - j + 1 by omega, pow_succ]
      ring
    rw [decValue_concat, ih, List.length_append, List.length_singleton, List.range_succ, List.map_append, List.sum_append,
      hshift, List.sum_map_mul_left]
    simp

/-- Settles O4: the three checks, and the number the digits spell. -/
theorem decimalTokenValue : Obligations.DecimalTokenValue := by
  intro m t v
  have hdigits : t.all isDecDigit = true ↔ ∀ c ∈ t, 0x30 ≤ c.toNat ∧ c.toNat ≤ 0x39 := by
    simp only [List.all_eq_true, isDecDigit_iff]
  rw [← decValue_eq_sum, ← hdigits, decDecode]
  split
  · rename_i hbad
    refine iff_of_false (by simp) ?_
    rintro ⟨hne, hall, -⟩
    obtain hnil | hno := hbad
    · exact hne hnil
    · exact nomatch hall.symm.trans hno
  · rename_i hok
    simp only [not_or, Bool.not_eq_false] at hok
    split
    · rename_i hlen
      refine iff_of_false (by simp) ?_
      rintro ⟨-, -, htwo, -⟩
      exact hlen.2 (htwo hlen.1)
    · rename_i hlen
      simp only [not_and, not_not] at hlen
      exact ⟨fun h => ⟨hok.1, hok.2, hlen, (Option.some.inj h).symm⟩, fun h => congrArg some h.2.2.2.symm⟩

/-! ## Addresses (R380) -/

/-- The low seven bits of a byte, as an address. -/
theorem setWidth_seven_eq_iff {v : Byte} {a : Addr7} : v.setWidth 7 = a ↔ a.toNat = v.toNat % 128 := by
  rw [← BitVec.toNat_inj, BitVec.toNat_setWidth, eq_comm]

theorem addrDecode_of_byte {m : AddrHigh} {t : List Byte} {v : Byte} (h : hexDecode t 1 = some [v]) :
    addrDecode m t = if 0x80 ≤ v.toNat ∧ m = .reject then none
      else if v.setWidth 7 = 0 then none else some (v.setWidth 7) := by
  simp only [addrDecode, h]

/-- What an address decodes to, where its text is one byte's (R380). -/
theorem addrDecode_byte_eq_some_iff {m : AddrHigh} {t : List Byte} {v : Byte} {a : Addr7} (h : hexDecode t 1 = some [v]) :
    addrDecode m t = some a ↔ (v.toNat < 0x80 ∨ m = .mask7) ∧ a.toNat = v.toNat % 128 ∧ a ≠ 0 := by
  rw [addrDecode_of_byte h, ← setWidth_seven_eq_iff]
  have hhigh : (v.toNat < 0x80 ∨ m = .mask7) ↔ ¬ (0x80 ≤ v.toNat ∧ m = .reject) := by
    cases m <;> simp
  rw [hhigh]
  split
  · rename_i hbad
    exact iff_of_false (by simp) fun hall => hall.1 hbad
  · rename_i hok
    split
    · rename_i hzero
      refine iff_of_false (by simp) ?_
      rintro ⟨-, rfl, hne⟩
      exact hne hzero
    · rename_i hne
      refine ⟨fun ha => ?_, fun ha => congrArg some ha.2.1⟩
      obtain rfl := Option.some.inj ha
      exact ⟨hok, rfl, hne⟩

/-- An address is decoded from the text of one byte (R380). -/
theorem exists_byte_of_addrDecode {m : AddrHigh} {t : List Byte} {a : Addr7} (h : addrDecode m t = some a) :
    ∃ v, hexDecode t 1 = some [v] := by
  unfold addrDecode at h
  split at h
  · rename_i v hv
    exact ⟨v, hv⟩
  · cases h

/-- Settles O5: the byte that the text decodes to decides. -/
theorem addressTokenValue : Obligations.AddressTokenValue := by
  intro m t a
  constructor
  · intro h
    obtain ⟨v, hv⟩ := exists_byte_of_addrDecode h
    exact ⟨v, hv, (addrDecode_byte_eq_some_iff hv).mp h⟩
  · rintro ⟨v, hv, hrest⟩
    exact (addrDecode_byte_eq_some_iff hv).mpr hrest

end Sys2Proof

/-!
PROOFS. What a step runs (O8), and what each command line does: its replies (O9, O10), a line with a check that fails (O11),
and the one engine request of a line whose checks pass (O12-O15).
-/

namespace Sys2Proof.Machine

/-! ## The instruction a step runs (R374, R260, R221, R175, R208) -/

section
variable {s : State} {m : Move} {d : Byte} {rest : List Choice}

/-- An agent other than a client runs the instruction it is at, with the choice taken up and nothing else. -/
theorem step_turn_exec {i : Instr} (h : Turn s m d rest) (hm : m ≠ .client) (hf : (s.chosen m d rest).fetch = some i) :
    step s = exec i (s.chosen m d rest) := by
  rw [step_turn_instr h hf, State.accept_of_ne (by simpa using hm)]

/-- At DISPATCH the Shell runs the line it has assembled (R374). -/
theorem step_dispatchLine (h : Turn s .shell d rest) (hidle : s.phase = .IDLE) (hpos : s.sh.pos = .DISPATCH) :
    step s = exec (decodeLine s.cfg s.sh.line.text) (s.chosen .shell d rest) :=
  step_turn_exec h (by decide) (by simp [State.fetch, State.shellInstr, hidle, hpos])

/-- At RST_DIS the Shell runs the soft reset (R219, R221). -/
theorem step_softReset (h : Turn s .shell d rest) (hp : s.phase = .RST_DIS) :
    step s = exec .softReset (s.chosen .shell d rest) :=
  step_turn_exec h (by decide) (by simp [State.fetch, State.shellInstr, hp])

/-- A client's placed request is taken out of its place in the step that runs it (R175, log 12). -/
theorem step_clientRequest {r : Request} (h : Turn s .client d rest) (hr : s.client = some r) :
    step s = exec (decodeRequest r) { s.chosen .client d rest with client := none } := by
  rw [step_turn_instr (i := decodeRequest r) h (by simp [State.fetch, hr])]
  rfl

/-- The peripheral runs the address byte that the bus is at (R208). -/
theorem step_addressByte {a : Addr7} {dir : Dir} {n : Nat} (h : Turn s .pAddr d rest) (hbus : s.i2c.bus = .Addr a dir n) :
    step s = exec (decodeWire (wireByte a dir)) (s.chosen .pAddr d rest) :=
  step_turn_exec h (by decide) (by simp [State.fetch, State.wireInstr, hbus])

end

/-- Settles O8: each place an instruction is fetched from. -/
theorem stepRunsInstruction : Obligations.StepRunsInstruction := by
  refine fun s d rest => ⟨step_dispatchLine, fun c => step_dueChunk, step_softReset, fun r => step_clientRequest,
    fun a n h hbus => ?_, fun a n h hbus => ?_⟩
  · rw [step_addressByte h hbus, decodeWire_wireByte_W]
  · rw [step_addressByte h hbus, decodeWire_wireByte_R]

/-! ## PING and the unrecognized line (R383, R388) -/

theorem extraBad_iff {p : Params} {extra : Bool} : extraBad p extra = true ↔ extra = true ∧ p.extraTokens = .reject := by
  simp [extraBad]

/-- Settles O9: by whether the extra tokens are rejected. -/
theorem pingReplies : Obligations.PingReplies :=
  fun _ _ => ⟨fun hok => if_neg fun hbad => hok (extraBad_iff.mp hbad), fun hbad => if_pos (extraBad_iff.mpr hbad)⟩

/-- A line without tokens, or with another token 0, is the unrecognized line (R388). -/
theorem decodeLine_unrecognized {p : Params} {line : List Byte}
    (h : ∀ kw, (tokens p.tokenize line).head? = some kw → kw ∉ Keyword.all) :
    ∃ kw, decodeLine p line = .unrecognized kw := by
  cases htok : tokens p.tokenize line with
  | nil => exact ⟨[], decodeLine_of_tokens_nil htok⟩
  | cons kw args =>
    exact ⟨kw, (decodeLine_of_tokens_cons htok).trans (decodeCommand_of_notMem p args (h kw (by rw [htok]; rfl)))⟩

/-- Settles O10: such a line decodes to the unrecognized line, whose token is not looked at. -/
theorem unrecognizedRepliesError : Obligations.UnrecognizedRepliesError := by
  refine fun s => ⟨fun line h => ?_, fun kw => rfl⟩
  obtain ⟨kw, hkw⟩ := decodeLine_unrecognized h
  rw [hkw]
  rfl

/-! ## The checks of a command's operands (R375, R382) -/

theorem checkAddr_eq_some_iff {aa : Option Addr7} {a : Addr7} :
    checkAddr aa = some a ↔ aa = some a ∧ wfAddr aa = true := by
  rw [checkAddr, Option.filter_eq_some_iff]
  exact and_congr_right (by rintro rfl; rfl)

theorem checkLen_eq_some_iff {nn : Option Nat} {n : Nat} : checkLen nn = some n ↔ nn = some n ∧ wfLen nn = true := by
  rw [checkLen, Option.filter_eq_some_iff]
  exact and_congr_right (by rintro rfl; rfl)

theorem checkData_eq_some_iff {n : Nat} {data : Option (List Byte)} {d : List Byte} :
    checkData n data = some d ↔ data = some d ∧ wfData (some n) data = true := by
  rw [checkData, Option.filter_eq_some_iff]
  exact and_congr_right (by rintro rfl; rfl)

/-- Checked data have the length they were checked for. -/
theorem checkData_length {n : Nat} {data : Option (List Byte)} {d : List Byte} (h : checkData n data = some d) :
    d.length = n :=
  beq_iff_eq.mp (Option.filter_eq_some_iff.mp h).2

/-! ## A line with a check that fails (R382) -/

/-- The step replies ERROR, makes no engine request, and writes memory at most where `mayWrite` says. -/
def Rejects (s : State) (mayWrite : Nat → Bool) (o : Result) : Prop :=
  ∃ t, o = .next t ∧
    t = { s with
      mem := t.mem
      eng := { s.eng with cause := .MALFORMED }
      sh := { s.sh with
        pos := .REPLYING, sendRest := [0x45, 0x52, 0x52, 0x4F, 0x52, 0x0D, 0x0A], sendAtB := false } } ∧
    ∀ x, mayWrite x = false → t.mem.read x = s.mem.read x

/-- A rejected line that has written nothing but where it may. -/
theorem rejects_rejectLine {s : State} {mayWrite : Nat → Bool} {m : Memory}
    (hmem : ∀ x, mayWrite x = false → m.read x = s.mem.read x) :
    Rejects s mayWrite (.next (State.rejectLine { s with mem := m })) :=
  ⟨_, rfl, rfl, hmem⟩

/-- A rejected line that has written nothing. -/
theorem rejects_unchanged (s : State) (mayWrite : Nat → Bool) : Rejects s mayWrite (.next s.rejectLine) :=
  rejects_rejectLine (m := s.mem) fun _ _ => rfl

/-- The bytes of a checked data field stay within the Shell's buffer (R72, R165). -/
theorem read_fill_outside {nn : Option Nat} {n : Nat} {data : Option (List Byte)} {d : List Byte}
    (hn : checkLen nn = some n) (hd : checkData n data = some d) (m : Memory) {buf x : Nat} (hx : x < buf ∨ buf + 64 ≤ x) :
    (m.writeN buf d).read x = m.read x := by
  have hlen := checkData_length hd
  have hmax : n ≤ 64 := checkLen_le hn
  exact Memory.read_writeN_outside m buf x d (by omega)

section
variable {s : State} {aa : Option Addr7} {nn n1 n2 : Option Nat} {data data1 data2 : Option (List Byte)} {extra : Bool}

theorem execRead_rejects (h : lineChecks s.cfg (.read aa nn extra) = false) :
    Rejects s (rejectedMayWrite s.cfg (.read aa nn extra)) (execRead aa nn extra s) := by
  unfold execRead
  split
  · rename_i haa hnn
    split
    · exact rejects_unchanged _ _
    · rename_i hextra
      simp [lineChecks, (checkAddr_eq_some_iff.mp haa).2, (checkLen_eq_some_iff.mp hnn).2, hextra] at h
  · exact rejects_unchanged _ _

theorem execWrite_rejects (h : lineChecks s.cfg (.write aa nn data extra) = false) :
    Rejects s (rejectedMayWrite s.cfg (.write aa nn data extra)) (execWrite aa nn data extra s) := by
  unfold execWrite
  split
  · rename_i haa hnn
    split
    · rename_i hdata
      dsimp only
      split
      · refine rejects_rejectLine fun x hx => read_fill_outside hnn hdata _ ?_
        simp only [rejectedMayWrite, decide_eq_false_iff_not] at hx
        omega
      · rename_i hextra
        obtain ⟨rfl, hwfn⟩ := checkLen_eq_some_iff.mp hnn
        simp [lineChecks, (checkAddr_eq_some_iff.mp haa).2, hwfn, (checkData_eq_some_iff.mp hdata).2, hextra] at h
    · exact rejects_unchanged _ _
  · exact rejects_unchanged _ _

theorem execWriteRead_rejects (h : lineChecks s.cfg (.writeRead aa n1 data1 n2 extra) = false) :
    Rejects s (rejectedMayWrite s.cfg (.writeRead aa n1 data1 n2 extra)) (execWriteRead aa n1 data1 n2 extra s) := by
  unfold execWriteRead
  split
  · rename_i haa hn1
    split
    · rename_i hdata1
      have hfill : ∀ x, rejectedMayWrite s.cfg (.writeRead aa n1 data1 n2 extra) x = false →
          (s.fillBuf s.cfg.wbuf1 _).mem.read x = s.mem.read x := fun x hx => read_fill_outside hn1 hdata1 _ (by
        simp only [rejectedMayWrite, decide_eq_false_iff_not] at hx
        omega)
      dsimp only
      split
      · rename_i hn2
        split
        · exact rejects_rejectLine hfill
        · rename_i hextra
          obtain ⟨rfl, hwfn1⟩ := checkLen_eq_some_iff.mp hn1
          simp [lineChecks, (checkAddr_eq_some_iff.mp haa).2, hwfn1, (checkData_eq_some_iff.mp hdata1).2,
            (checkLen_eq_some_iff.mp hn2).2, hextra] at h
      · exact rejects_rejectLine hfill
    · exact rejects_unchanged _ _
  · exact rejects_unchanged _ _

theorem execWriteWrite_rejects (h : lineChecks s.cfg (.writeWrite aa n1 data1 n2 data2 extra) = false) :
    Rejects s (rejectedMayWrite s.cfg (.writeWrite aa n1 data1 n2 data2 extra))
      (execWriteWrite aa n1 data1 n2 data2 extra s) := by
  have houtside : ∀ x, rejectedMayWrite s.cfg (.writeWrite aa n1 data1 n2 data2 extra) x = false →
      (x < s.cfg.wbuf1 ∨ s.cfg.wbuf1 + 64 ≤ x) ∧ (x < s.cfg.wbuf2 ∨ s.cfg.wbuf2 + 64 ≤ x) := fun x hx => by
    simp only [rejectedMayWrite, decide_eq_false_iff_not] at hx
    omega
  unfold execWriteWrite
  split
  · rename_i haa hn1
    split
    · rename_i hdata1
      have hfill1 : ∀ x, rejectedMayWrite s.cfg (.writeWrite aa n1 data1 n2 data2 extra) x = false →
          (s.fillBuf s.cfg.wbuf1 _).mem.read x = s.mem.read x := fun x hx => read_fill_outside hn1 hdata1 _ (houtside x hx).1
      dsimp only
      split
      · rename_i hn2
        split
        · rename_i hdata2
          split
          · exact rejects_rejectLine fun x hx => (read_fill_outside hn2 hdata2 _ (houtside x hx).2).trans (hfill1 x hx)
          · rename_i hextra
            obtain ⟨rfl, hwfn1⟩ := checkLen_eq_some_iff.mp hn1
            obtain ⟨rfl, hwfn2⟩ := checkLen_eq_some_iff.mp hn2
            simp [lineChecks, (checkAddr_eq_some_iff.mp haa).2, hwfn1, (checkData_eq_some_iff.mp hdata1).2, hwfn2,
              (checkData_eq_some_iff.mp hdata2).2, hextra] at h
        · exact rejects_rejectLine hfill1
      · exact rejects_rejectLine hfill1
    · exact rejects_unchanged _ _
  · exact rejects_unchanged _ _

end

/-- Settles O11: a command whose checks do not all pass ends at the first that fails, before its engine request. -/
theorem malformedLineNeverCallsEngine : Obligations.MalformedLineNeverCallsEngine := by
  intro i s hform h
  cases i with
  | ping extra =>
    have hbad : extraBad s.cfg extra = true := by simpa [lineChecks] using h
    rw [exec, execPing, if_pos hbad]
    exact rejects_unchanged _ _
  | read aa nn extra => exact execRead_rejects h
  | write aa nn data extra => exact execWrite_rejects h
  | writeRead aa n1 data1 n2 extra => exact execWriteRead_rejects h
  | writeWrite aa n1 data1 n2 data2 extra => exact execWriteWrite_rejects h
  | unrecognized kw => exact rejects_unchanged _ _
  | _ => cases hform

/-! ## A line whose checks pass (R384-R387) -/

section
variable {s : State} {a : Addr7} {n n1 n2 : Nat} {d d1 d2 : List Byte} {extra : Bool}

/-- A length that passes its check is 1 or more (R165). -/
theorem pos_of_wfLen (h : wfLen (some n) = true) : 1 ≤ n :=
  checkLen_pos (checkLen_eq_some_iff.mpr ⟨rfl, h⟩)

theorem length_of_wfData (h : wfData (some n) (some d) = true) : d.length = n := beq_iff_eq.mp h

theorem execRead_eq_request (h : lineChecks s.cfg (.read (some a) (some n) extra) = true) :
    1 ≤ n ∧ execRead (some a) (some n) extra s = requestRead a s.cfg.rbuf n (.data n) s := by
  simp only [lineChecks, Bool.and_eq_true, Bool.not_eq_true'] at h
  obtain ⟨⟨haa, hnn⟩, hextra⟩ := h
  refine ⟨pos_of_wfLen hnn, ?_⟩
  simp [execRead, checkAddr_eq_some_iff.mpr ⟨rfl, haa⟩, checkLen_eq_some_iff.mpr ⟨rfl, hnn⟩, hextra]

theorem execWrite_eq_request (h : lineChecks s.cfg (.write (some a) (some n) (some d) extra) = true) :
    1 ≤ n ∧ d.length = n ∧ execWrite (some a) (some n) (some d) extra s
      = requestWrite a s.cfg.wbuf1 n .ok (s.fillBuf s.cfg.wbuf1 d) := by
  simp only [lineChecks, Bool.and_eq_true, Bool.not_eq_true'] at h
  obtain ⟨⟨⟨haa, hnn⟩, hdata⟩, hextra⟩ := h
  refine ⟨pos_of_wfLen hnn, length_of_wfData hdata, ?_⟩
  simp [execWrite, checkAddr_eq_some_iff.mpr ⟨rfl, haa⟩, checkLen_eq_some_iff.mpr ⟨rfl, hnn⟩,
    checkData_eq_some_iff.mpr ⟨rfl, hdata⟩, hextra]

theorem execWriteRead_eq_request
    (h : lineChecks s.cfg (.writeRead (some a) (some n1) (some d) (some n2) extra) = true) :
    1 ≤ n1 ∧ d.length = n1 ∧ execWriteRead (some a) (some n1) (some d) (some n2) extra s
      = requestWriteRead a s.cfg.wbuf1 n1 s.cfg.rbuf n2 (.data n2) (s.fillBuf s.cfg.wbuf1 d) := by
  simp only [lineChecks, Bool.and_eq_true, Bool.not_eq_true'] at h
  obtain ⟨⟨⟨⟨haa, hn1⟩, hdata⟩, hn2⟩, hextra⟩ := h
  refine ⟨pos_of_wfLen hn1, length_of_wfData hdata, ?_⟩
  simp [execWriteRead, checkAddr_eq_some_iff.mpr ⟨rfl, haa⟩, checkLen_eq_some_iff.mpr ⟨rfl, hn1⟩,
    checkData_eq_some_iff.mpr ⟨rfl, hdata⟩, checkLen_eq_some_iff.mpr ⟨rfl, hn2⟩, hextra]

theorem execWriteWrite_eq_request
    (h : lineChecks s.cfg (.writeWrite (some a) (some n1) (some d1) (some n2) (some d2) extra) = true) :
    1 ≤ n1 ∧ d1.length = n1 ∧ d2.length = n2 ∧ execWriteWrite (some a) (some n1) (some d1) (some n2) (some d2) extra s
      = requestWriteWrite a s.cfg.wbuf1 n1 s.cfg.wbuf2 n2 .ok ((s.fillBuf s.cfg.wbuf1 d1).fillBuf s.cfg.wbuf2 d2) := by
  simp only [lineChecks, Bool.and_eq_true, Bool.not_eq_true'] at h
  obtain ⟨⟨⟨⟨⟨haa, hn1⟩, hdata1⟩, hn2⟩, hdata2⟩, hextra⟩ := h
  refine ⟨pos_of_wfLen hn1, length_of_wfData hdata1, length_of_wfData hdata2, ?_⟩
  simp [execWriteWrite, checkAddr_eq_some_iff.mpr ⟨rfl, haa⟩, checkLen_eq_some_iff.mpr ⟨rfl, hn1⟩,
    checkData_eq_some_iff.mpr ⟨rfl, hdata1⟩, checkLen_eq_some_iff.mpr ⟨rfl, hn2⟩,
    checkData_eq_some_iff.mpr ⟨rfl, hdata2⟩, hextra]

end

/-- Settles O12: the request of a checked READ is not refused. -/
theorem readMakesItsRequest : Obligations.ReadMakesItsRequest := by
  intro a n extra s h hmem hidle
  obtain ⟨hn, hexec⟩ := execRead_eq_request h
  exact hexec.trans (makeCall_refuseOne_begins _ hn hmem hidle)

/-- Settles O13: the buffer is filled, and the request of a checked WRITE is not refused. -/
theorem writeMakesItsRequest : Obligations.WriteMakesItsRequest := by
  intro a n d extra s h hmem hidle
  obtain ⟨hn, rfl, hexec⟩ := execWrite_eq_request h
  exact ⟨_, hexec.trans (makeCall_refuseOne_begins _ hn hmem hidle), rfl, Memory.readN_writeN _ _ _,
    fun x hx => Memory.read_writeN_outside _ _ _ _ hx⟩

/-- Settles O14: the buffer is filled, and the request of a checked WRITE_READ is not refused. -/
theorem writeReadMakesItsRequest : Obligations.WriteReadMakesItsRequest := by
  intro a n1 n2 d extra s h hmem hmem2 hidle
  obtain ⟨hn1, rfl, hexec⟩ := execWriteRead_eq_request h
  exact ⟨_, hexec.trans (makeCall_refuseTwo_begins _ hn1 hmem hmem2 hidle), rfl, Memory.readN_writeN _ _ _,
    fun x hx => Memory.read_writeN_outside _ _ _ _ hx⟩

/-- Settles O15: filling the second buffer leaves the first one's bytes, which lie apart from it. -/
theorem writeWriteMakesItsRequest : Obligations.WriteWriteMakesItsRequest := by
  intro a n1 n2 d1 d2 extra s h hmem hmem2 hapart hidle
  obtain ⟨hn1, rfl, rfl, hexec⟩ := execWriteWrite_eq_request h
  refine ⟨_, hexec.trans (makeCall_refuseTwo_begins _ hn1 hmem hmem2 hidle), rfl, ?_, Memory.readN_writeN _ _ _,
    fun x hx1 hx2 => ?_⟩
  · exact (Memory.readN_writeN_outside _ _ _ _ _ hapart).trans (Memory.readN_writeN _ _ _)
  · exact (Memory.read_writeN_outside _ _ _ _ hx2).trans (Memory.read_writeN_outside _ _ _ _ hx1)

end Sys2Proof.Machine

/-!
PROOFS. A whole READ along one schedule (O59): the dispatch begins the call, its one chunk is read, and its REARM returns the
call with the reply.
-/

namespace Sys2Proof.Machine

/-! ## The closing of a read chunk, whether or not a call is in flight (R206, R215-R218) -/

/-- The call in flight, the registers and the choice taken up are no part of what makes a chunk ready to arm. -/
theorem Armed.congr {s : State} {t : Txn} (h : Armed s t) (call : Option Call) (eng : Eng) (now : Choice) :
    Armed { s with call := call, eng := eng, now := now } t :=
  ⟨h.cfg, h.phase, h.txn, h.active, h.unstalled, h.noStop, h.noNack, h.txe, h.rxne, h.bus, h.sadd, h.rdWrn, h.nbytes,
    h.noError, h.irq, h.nonempty, h.inMemory⟩

/-- A read chunk that nothing failed is settled up to its REARM, with its STOP requested. -/
def State.readSettled (s : State) (t : Txn) (bs : List Byte) (x : Byte) (c : Nat) (rest : List Choice) : State :=
  { s.readOver t bs x c rest with
    sem := false
    irqen := s.irqen.set .DRX false
    eng := { s.eng with timedOut := false, res := t.n, cause := .NONE }
    i2c := { s.i2c with start := false, rxdr := x, rxne := false, bus := .Held, stop := true }
    rx := { s.rx with cmar := c, cndtr := 0, en := false, tcif := false, teif := false }
    phase := .REARM
    now := ⟨.shell, 0⟩ }

/-- The completion handler, the take of WAIT, EVAL, STOPREQ and DMAOFF. -/
theorem Armed.steps_settleRead {s : State} {t : Txn} (h : Armed s t) (hdir : t.dir = .R) (hstop : t.cont = false)
    (bs : List Byte) (x : Byte) (c : Nat) (rest : List Choice) :
    steps 5 (s.readOver t bs x c
        (⟨.isrDmaRx, 0⟩ :: ⟨.shell, 0⟩ :: ⟨.shell, 0⟩ :: ⟨.shell, 0⟩ :: ⟨.shell, 0⟩ :: rest))
      = .next (s.readSettled t bs x c rest) := by
  obtain ⟨addr, dir, buf, len, n, cont⟩ := t
  obtain rfl : dir = .R := hdir
  obtain rfl : cont = false := hstop
  exact steps_append (j := 2) (k := 3) (steps_waitDone (dir := .R) h.cfg rfl rfl (h.irq .R) rfl)
    (steps_evalSuccess (by exact h.cfg) rfl (by exact h.txn) rfl (by exact h.noNack) rfl (by exact h.noError .R)
      h.nonempty rfl)

/-! ## The schedule of a read chunk -/

/-- The opening, the bytes, then the completion handler and the closing. -/
theorem readChoices_eq (bs : List Byte) : readChoices bs = openingChoices ++
    ((bs.map (fun b => [⟨.pRbyte, b⟩, ⟨.dmaRx, 0⟩])).flatten ++ ⟨.isrDmaRx, 0⟩ :: closingChoices) := by
  simp [readChoices]

theorem readChoices_length (bs : List Byte) : (readChoices bs).length = 13 + 2 * bs.length := by
  simp [readChoices, openingChoices, closingChoices, Function.comp_def]
  omega

/-! ## The call of a READ (R384, R265, R389) -/

/-- The checks of a READ without extra tokens (R384). -/
theorem lineChecks_read {p : Params} {a : Addr7} {n : Nat} (ha : a ≠ 0) (hn : 1 ≤ n) (hmax : n ≤ 64) :
    lineChecks p (.read (some a) (some n) false) = true := by
  have haddr : wfAddr (some a) = true := bne_iff_ne.mpr ha
  have hlen : wfLen (some n) = true := Bool.and_eq_true_iff.mpr ⟨decide_eq_true hn, decide_eq_true hmax⟩
  simp [lineChecks, haddr, hlen, extraBad]

/-- The engine call of a READ, with its reply owed (R384). -/
def readCall (p : Params) (a : Addr7) (n : Nat) : Call :=
  ⟨a, ⟨.R, p.rbuf, n, false⟩, 0, none, some (p.rbuf, n), .data n⟩

/-- One chunk carries the whole of a READ (R261). -/
theorem readCall_dueLen (p : Params) (a : Addr7) {n : Nat} (hmax : n ≤ 255) : (readCall p a n).dueLen = n :=
  Nat.min_eq_right hmax

theorem readCall_dueChunk {p : Params} (a : Addr7) {n : Nat} (hn : 1 ≤ n) (hmax : n ≤ 255)
    (hmem : p.rbuf + n ≤ memTop p) : (readCall p a n).dueChunk p = .chunk a .R p.rbuf n false := by
  rw [Call.dueChunk_eq (by exact hn) (by exact hmem), if_pos (by exact hmax)]
  simp [readCall, Nat.min_eq_right hmax]

/-- At CONFIG the Shell issues the one chunk of a READ (R200, R201). -/
theorem step_configRead {s : State} {a : Addr7} {n : Nat} {d : Byte} {rest : List Choice} (h : Turn s .shell d rest)
    (hp : s.phase = .CONFIG) (hc : s.call = some (readCall s.cfg a n)) (hn : 1 ≤ n) (hmax : n ≤ 255)
    (hmem : s.cfg.rbuf + n ≤ memTop s.cfg) :
    step s = .next (configStep a .R s.cfg.rbuf n false (s.chosen .shell d rest)) := by
  rw [step_dueChunk h hp hc, readCall_dueChunk a hn hmax hmem]
  exact exec_chunk_config (by simp) hn hmax hmem (.inr hp)

/-- From an engine at rest, the one chunk of a READ is configured, ready to arm (R201, R260). -/
theorem configStep_readCall_armed {s : State} (h : EngineClean s) {a : Addr7} {n : Nat} (hn : 1 ≤ n) (hmax : n ≤ 255)
    (hmem : s.cfg.rbuf + n ≤ memTop s.cfg) (d : Byte) (l : List Choice) :
    Armed (configStep a .R s.cfg.rbuf n false ((s.beginXfer (readCall s.cfg a n)).chosen .shell d l))
      ⟨a, .R, s.cfg.rbuf, n, BitVec.ofNat 8 n, false⟩ := by
  have harmed := (configStep_armed (a := a) (dir := .R) (cont := false) (l := l) h hn hmax hmem).congr
    (some (readCall s.cfg a n)) { s.eng with total := 0 } ⟨.shell, d⟩
  obtain ⟨-, -, hcall, -⟩ := h
  simp only [configStep, State.callerLen, hcall] at harmed
  exact harmed

/-- REARM returns a full READ's call with its reply, and the STOP goes out (R220, R265, R213). -/
theorem steps_rearmRead {s : State} {a : Addr7} {n : Nat} (hcfg : configRefusal s.cfg = none) (hp : s.phase = .REARM)
    (hc : s.call = some (readCall s.cfg a n)) (hn : 1 ≤ n) (hmax : n ≤ 255) (htotal : s.eng.total = 0)
    (hres : s.eng.res = BitVec.ofNat 8 n) (hact : s.i2c.peActive = true) (hstall : s.i2c.stalled = false)
    (hbus : s.i2c.bus = .Held) (hstop : s.i2c.stop = true) (hsched : s.sched = [⟨.shell, 0⟩, ⟨.pStop, 0⟩]) :
    steps 2 s = .next { (s.returned s.mem s.free n true).startReply (Text.data (s.mem.readN s.cfg.rbuf n)) with
      trace := s.trace ++ [.STOP]
      i2c := { s.i2c with stopf := true, bus := .Idle, stop := false }
      now := ⟨.pStop, 0⟩
      sched := [] } := by
  have hdue := readCall_dueLen s.cfg a hmax
  have hrearm : step s = .next { (s.returned s.mem s.free n true).startReply (Text.data (s.mem.readN s.cfg.rbuf n)) with
      now := ⟨.shell, 0⟩, sched := [⟨.pStop, 0⟩] } := by
    rw [step_rearmStep ⟨hsched, hcfg⟩ hp,
      rearmStep_last (s := s.chosen .shell 0 [⟨.pStop, 0⟩]) hc hn htotal (hdue.symm ▸ hres)
        (by rw [hdue]; exact Nat.zero_add n),
      State.returnXfer_last rfl rfl]
    rfl
  exact steps_next hrearm (steps_next
    ((stopCondition _ 0 [] ⟨rfl, by exact hcfg⟩ (by exact hact) (by exact hstall) (by exact hstop)).2.1 (.inl hbus)) rfl)

/-- Settles O59: the dispatch, the chunk's CONFIG, its bytes, its settle and its REARM, one after another. -/
theorem readCommandReplies : Obligations.ReadCommandReplies := by
  intro s a bs d h hparams ha hn hmax
  obtain ⟨-, -, -, -, -, hrbuf, -⟩ := hparams
  have hmem : s.cfg.rbuf + bs.length ≤ memTop s.cfg := (Nat.add_le_add_left hmax _).trans hrbuf
  have hmax' : bs.length ≤ 255 := by omega
  obtain ⟨hcfg, hphase, hcall, -⟩ := id h
  have hbegin : exec (.read (some a) (some bs.length) false) s = .next (s.beginXfer (readCall s.cfg a bs.length)) :=
    readMakesItsRequest a bs.length false s (lineChecks_read ha hn hmax) hmem (State.inFlight_eq_false.mpr ⟨hcall, hphase⟩)
  have harmed := configStep_readCall_armed (a := a) h hn hmax' hmem d (readChoices bs)
  have hconfig := step_configRead (s := { s.beginXfer (readCall s.cfg a bs.length) with
    sched := ⟨.shell, d⟩ :: readChoices bs }) ⟨rfl, hcfg⟩ rfl rfl hn hmax' hmem
  obtain ⟨x, c, hbytes⟩ := steps_readBytes harmed rfl (toNat_ofNat_of_le hmax') (readChoices_eq bs)
  have hsettle := harmed.steps_settleRead rfl rfl bs x c [⟨.shell, 0⟩, ⟨.pStop, 0⟩]
  have hclose := steps_append hsettle (steps_rearmRead (by exact harmed.cfg) rfl rfl hn hmax' rfl rfl
    (by exact harmed.active) (by exact harmed.unstalled) rfl rfl rfl)
  have hlen : 1 + (readChoices bs).length = 6 + 2 * bs.length + (5 + 2) + 1 := by rw [readChoices_length]; omega
  refine ⟨_, _, hbegin, hlen ▸ steps_next hconfig (steps_append hbytes hclose), ?_⟩
  have hreply : Text.data ((s.mem.writeN s.cfg.rbuf bs).readN s.cfg.rbuf bs.length)
      = [0x44, 0x41, 0x54, 0x41, 0x20] ++ hexEncode bs ++ [0x0D, 0x0A] := by
    rw [Memory.readN_writeN, Text.data, Text.crlf]
  exact ⟨rfl, rfl, rfl, hreply, rfl, rfl, rfl, rfl, rfl, rfl, rfl⟩

end Sys2Proof.Machine

/-!
PROOFS. No rule stops the machine, and it waits only at rest (O50): where the engine's invariant holds, every instruction and
every sequencer step is answered; a clean entry meets the invariant and every step keeps it, so a run goes on for ever; and in
a quiescent state each wait is excluded in turn, the engine's first, then the servicing task's, the Shell's and the host's.
-/

namespace Sys2Proof.Machine

/-! ## Every turn is answered (R440, R443) -/

/-- A configuration that R10, R311 and D27 allow is not refused. -/
theorem configRefusal_eq_none {p : Params} (h : ParamsOk p) : configRefusal p = none := by
  obtain ⟨-, hin, hout, -⟩ := h
  rw [configRefusal, if_neg (by omega), if_neg (by omega)]

section
variable {s : State}

/-- Where the sequencer is idle no request is in flight. -/
theorem inFlight_of_idle (hc : chunkOk s = true) (hp : s.phase = .IDLE) : s.inFlight = false := by
  refine State.inFlight_eq_false.mpr ⟨?_, hp⟩
  cases hcall : s.call with
  | none => rfl
  | some c =>
    obtain ⟨-, hbusy, -⟩ := (chunkOk_some hcall).mp hc
    exact absurd hp hbusy

/-- The chunk due of a call without an empty phase is one that CHUNK takes (R200, R264). -/
theorem exec_dueChunk_answered {c : Call} (hmove : s.now.move ≠ .client) (hc : chunkOk s = true)
    (hcall : s.call = some c) (hn : NoEmptyPhase s) (hp : s.phase = .CONFIG) : Answered (exec (c.dueChunk s.cfg) s) := by
  obtain ⟨hok, -⟩ := (chunkOk_some hcall).mp hc
  obtain ⟨hmem, hin | ⟨-, hempty, -⟩, -⟩ := callOk_iff.mp hok
  · have hlen := c.dueLen_le
    have hfits : c.cur.buf + c.off + c.dueLen ≤ memTop s.cfg := by
      unfold Call.dueLen
      omega
    have hptr : ptr s.cfg (c.cur.buf + c.off) = c.cur.buf + c.off := ptr_of_lt (by omega)
    rw [Call.dueChunk, hptr, exec_chunk_config hmove (Call.dueLen_pos.mpr hin) hlen hfits (.inr hp)]
    exact answered_next _
  · obtain ⟨hpos, -⟩ := hn c hcall
    omega

/-- The instruction that the Shell is at is answered: a line, the chunk due, or the soft reset. -/
theorem exec_shellInstr_answered {i : Instr} (he : EngineOk s) (hn : NoEmptyPhase s) (hmove : s.now.move ≠ .client)
    (hi : s.shellInstr = some i) : Answered (exec i s) := by
  obtain ⟨hcfg, hc, -⟩ := he
  unfold State.shellInstr at hi
  split at hi
  · rename_i hp
    split at hi
    · obtain rfl := Option.some.inj hi
      exact exec_line_answered (inFlight_of_idle hc hp) (decodeLine_form _ _) hcfg
    · cases hi
  · rename_i hp
    obtain ⟨c, hcall, rfl⟩ := Option.map_eq_some_iff.mp hi
    exact exec_dueChunk_answered hmove hc hcall hn hp
  · obtain rfl := Option.some.inj hi
    rw [softResetDisables s hmove]
    exact answered_next _
  · cases hi

/-- An address byte goes out, or the peripheral holds (R208). -/
theorem putAddress_answered (a : Addr7) (d : Dir) : Answered (putAddress a d s) := by
  unfold putAddress
  split
  · split <;> exact answered_next _
  · exact answered_next _

/-- The address byte that the bus is at is answered. -/
theorem exec_wireInstr_answered {i : Instr} (hi : s.wireInstr = some i) : Answered (exec i s) := by
  unfold State.wireInstr at hi
  split at hi
  · obtain rfl := Option.some.inj hi
    rw [exec_decodeWire_wireByte]
    exact putAddress_answered _ _
  · cases hi

/-- In a chunk there is the record that a step reads (R42). -/
theorem withTxn_answered (f : Txn → State) (hc : chunkOk s = true) (hp : s.phase.inChunk = true) :
    Answered (s.withTxn f) := by
  obtain ⟨c, t, -, ht, -⟩ := chunkOk_running hc hp
  rw [State.withTxn, ht]
  exact answered_next _

/-- The sequencer's step is answered: the five that read the record are taken in a chunk. -/
theorem sequencerStep_answered (hc : chunkOk s = true) : Answered (sequencerStep s) := by
  unfold sequencerStep
  cases hp : s.phase with
  | ARM | ENDMA | EVAL | STOPREQ | DMAOFF => exact withTxn_answered _ hc (by rw [hp]; rfl)
  | _ => exact answered_next _

/-- A step other than an instruction is answered. -/
theorem act_answered (m : Move) (hc : chunkOk s = true) : Answered (act m s) := by
  cases m with
  | shell =>
    unfold act
    dsimp only
    split
    · exact answered_next _
    · exact sequencerStep_answered hc
  | _ => exact answered_next _

theorem micro_answered (hc : chunkOk s = true) : Answered (micro s) := by
  unfold micro
  split
  · exact act_answered _ hc
  · exact answered_next _

/-- The instruction that the agent of the choice is at is answered, where no client's request is placed. -/
theorem exec_fetch_answered {i : Instr} (he : EngineOk s) (hn : NoEmptyPhase s) (hclient : s.client = none)
    (hi : s.fetch = some i) : Answered (exec i s.accept) := by
  unfold State.fetch at hi
  split at hi
  · rename_i hm
    have hmove : s.now.move ≠ .client := by simp [hm]
    rw [State.accept_of_ne hmove]
    exact exec_shellInstr_answered he hn hmove hi
  · simp [hclient] at hi
  · rename_i hm
    rw [State.accept_of_ne (by simp [hm])]
    exact exec_wireInstr_answered hi
  · cases hi

/-- Every step is answered, whichever agent moves and whatever it draws. -/
theorem step_answered (he : EngineOk s) (hn : NoEmptyPhase s) (hclient : s.client = none) : Answered (step s) := by
  have het : EngineOk s.takeChoice := by rw [s.takeChoice_eq]; exact he
  have hnt : NoEmptyPhase s.takeChoice := by rw [s.takeChoice_eq]; exact hn
  have hct : s.takeChoice.client = none := by rw [s.takeChoice_eq]; exact hclient
  obtain ⟨hcfg, hc, -⟩ := id het
  have hadmitted : configRefusal s.cfg = none := configRefusal_eq_none he.1
  unfold step
  rw [hadmitted]
  dsimp only
  split
  · rename_i i hi
    exact exec_fetch_answered het hnt hct hi
  · exact micro_answered hc

end

/-! ## A run from a clean entry goes on for ever (R504, R540) -/

/-- No step places a client's request (log 12). -/
theorem StepBy.keeps_client_none {s s' : State} {m : Move} (h : StepBy s m s') (hclient : s.client = none) :
    s'.client = none := by
  cases h with
  | hold => exact hclient
  | engine h =>
    cases h with
    | clientCall => rfl
    | arm t => simpa [armStep] using hclient
    | endma t => simpa [endmaStep] using hclient
    | dmaoff t => simpa [dmaoffStep] using hclient
    | _ => exact hclient
  | bus h => rw [h.frame]; exact hclient
  | transport h => rw [h.frame]; exact hclient

/-- What every state of a run without a client meets. -/
structure Unstopped (s : State) : Prop where
  engine : EngineOk s
  noEmptyPhase : NoEmptyPhase s
  noClient : s.client = none

theorem Unstopped.answered {s : State} (h : Unstopped s) : Answered (step s) :=
  step_answered h.engine h.noEmptyPhase h.noClient

theorem Unstopped.withSched {s : State} (h : Unstopped s) (l : List Choice) : Unstopped { s with sched := l } :=
  ⟨h.engine, h.noEmptyPhase, h.noClient⟩

/-- Every step leaves a state that the next one does not stop. -/
theorem Unstopped.of_step {s s' : State} (h : Unstopped s) (hs : step s = .next s') : Unstopped s' := by
  obtain ⟨hengine, hempty⟩ := engineInvariantKept s s' h.engine hs
  obtain ⟨sched, now, tick, -, hstep⟩ := step_stepBy_with hs
  exact ⟨hengine, hempty h.noClient h.noEmptyPhase, hstep.keeps_client_none h.noClient⟩

/-- A clean entry meets the engine's invariant (R501). -/
theorem CleanEntry.engineOk {s : State} (h : CleanEntry s) : EngineOk s := by
  obtain ⟨hcfg, hphase, htxn, hcall, -, -, ⟨hpe, hact, hstart, -, -, -, -, -, -, hbus, -⟩, -, ⟨htx, htxtc, htxte⟩,
    ⟨hrx, hrxtc, hrxte⟩, -⟩ := h
  refine ⟨hcfg, (chunkOk_none hcall).mpr ⟨hphase, htxn⟩, (channelsOk_none htxn).mpr ⟨?_, ?_⟩, ?_, ?_, ?_⟩
  · simp [Dma.atRest, htx, htxtc, htxte]
  · simp [Dma.atRest, hrx, hrxtc, hrxte]
  · exact (enableOk_of_enabled (by rw [hphase]; rfl)).mpr ⟨hpe, hact⟩
  · rw [hbus]; rfl
  · exact fun hs => nomatch hstart.symm.trans hs

theorem CleanEntry.unstopped {s : State} (h : CleanEntry s) : Unstopped s := by
  have hengine := CleanEntry.engineOk h
  obtain ⟨-, -, -, hcall, -, -, -, -, -, -, -, -, -, -, -, -, -, -, -, -, -, -, hclient⟩ := h
  exact ⟨hengine, by rw [NoEmptyPhase, hcall]; exact nofun, hclient⟩

/-- The state that a result gives; `s` where it is a stop. -/
def nextOr (s : State) : Result → State
  | .next s' => s'
  | _ => s

theorem Answered.eq_next_nextOr {o : Result} (h : Answered o) (s : State) : o = .next (nextOr s o) := by
  obtain ⟨t, rfl⟩ := h
  rfl

/-- The state after the first `k` of the choices `c`. -/
def State.after (s : State) (c : Nat → Choice) : Nat → State
  | 0 => s
  | k + 1 => nextOr (s.after c k) (step { s.after c k with sched := [c k] })

theorem Unstopped.step_next {s : State} {c : Nat → Choice} {k : Nat} (h : Unstopped (s.after c k)) :
    step { s.after c k with sched := [c k] } = .next (s.after c (k + 1)) :=
  (h.withSched [c k]).answered.eq_next_nextOr _

theorem Unstopped.after {s : State} (h : Unstopped s) (c : Nat → Choice) (k : Nat) : Unstopped (s.after c k) := by
  induction k with
  | zero => exact h
  | succ k ih => exact (ih.withSched [c k]).of_step ih.step_next

/-- Every sequence of choices has an execution. -/
theorem Unstopped.execution {s : State} (h : Unstopped s) (c : Nat → Choice) : Execution c (s.after c) :=
  fun k => (h.after c k).step_next

/-! ## A quiescent state is at rest (R540) -/

/-- In a quiescent state no step of R540's list may be taken. -/
theorem not_mayMove_of_quiescent {s : State} {m : Move} (hq : Quiescent s = true) (hm : m ∈ quiescentMoves) :
    ¬ MayMove s m := by
  have hoff : s.enabled m = false := by simpa using List.all_eq_true.mp hq m hm
  exact fun hmay => nomatch hoff.symm.trans (State.enabled_iff.mpr hmay)

/-- The engine, the servicing task and the IN endpoint have nothing to do. -/
structure Drained (s : State) : Prop where
  phase : s.phase = .IDLE
  epIn : s.usb.epIn = .Free
  taken : s.usb.taken = ⟨false, false, false⟩
  pending : s.usb.pending = ⟨false, false, false⟩
  events : s.usb.events = ⟨false, false, false⟩

/-- The OUT endpoint takes a packet: a full one would have its event waiting, and one held off finds room (R308, R310). -/
theorem epOut_of_drained {s : State} (hd : Drained s) (ht : TransportOk s) (hf : FlowOk s) (hrecvd : s.sh.recvd = none)
    (hins : s.ins.count = 0) : s.usb.epOut = .Valid := by
  obtain ⟨-, hin, -, -, -, -, hnak, -⟩ := ht
  obtain ⟨-, -, -, -, hrecv, hann, -⟩ := hf
  cases hout : s.usb.epOut with
  | Valid => rfl
  | Full p => simp [Usb.announced, hout, hd.events] at hann
  | Nak =>
    obtain hroom | howes | hbyte := hrecv (hnak.mpr hout)
    · simp only [State.insRoom, hins] at hroom
      omega
    · simp [Usb.owes, hd.taken, hd.pending] at howes
    · exact absurd hrecvd hbyte

section
variable {s : State} (hq : Quiescent s = true)
include hq

/-- A wait without the signal has the timeout to come: what R456 waits for is on R540's list. -/
theorem phase_ne_wait_of_quiescent (hsem : s.sem = false) : s.phase ≠ .WAIT := by
  intro hp
  refine not_mayMove_of_quiescent hq (m := .timer) (by decide) (State.timeoutEnabled_iff.mp ?_)
  have hprogress : progressMoves.all (fun m => !s.hwEnabled m) = true := by
    have hsub : ∀ m ∈ progressMoves, m ∈ quiescentMoves ∧ s.enabled m = s.hwEnabled m := by
      simp [progressMoves, quiescentMoves, State.enabled]
    refine List.all_eq_true.mpr fun m hm => ?_
    rw [← (hsub m hm).2]
    exact List.all_eq_true.mp hq m (hsub m hm).1
  unfold State.timeoutEnabled
  rw [hp, hsem, hprogress]
  cases s.cfg.timeoutModel <;> rfl

/-- The engine is idle: each of its waits has the step that ends it still to come. -/
theorem idle_of_quiescent (he : EngineOk s) : s.phase = .IDLE := by
  obtain ⟨-, hc, -, hen, -⟩ := he
  have hshell : ¬ MayMove s .shell := not_mayMove_of_quiescent hq (by decide)
  cases hp : s.phase with
  | IDLE => rfl
  | CONFIG =>
    have hcall : s.call = none := by simpa [MayMove, hp] using hshell
    exact nomatch hp.symm.trans ((chunkOk_none hcall).mp hc).1
  | WAIT =>
    have hsem : s.sem = false := by simpa [MayMove, hp] using hshell
    exact absurd hp (phase_ne_wait_of_quiescent hq hsem)
  | RST_WAIT =>
    have hact : s.i2c.peActive = true := by simpa [MayMove, hp] using hshell
    have hpe : s.i2c.pe = false := by simpa [enableOk, hp] using hen
    exact absurd ⟨hpe, hact⟩ (not_mayMove_of_quiescent hq (m := .pDisable) (by decide))
  | _ => simp [MayMove, hp] at hshell

theorem epIn_of_quiescent : s.usb.epIn = .Free := by
  cases hin : s.usb.epIn with
  | Free => rfl
  | Busy p => exact absurd ⟨p, hin⟩ (not_mayMove_of_quiescent hq (m := .hostIn) (by decide))

/-- The servicing task holds no flag: a POLL would end, or handle an event that waits. -/
theorem flags_of_quiescent (ht : TransportOk s) :
    s.usb.taken = ⟨false, false, false⟩ ∧ s.usb.pending = ⟨false, false, false⟩ := by
  have hsvc : s.svcEnabled = false :=
    Bool.eq_false_iff.mpr fun hen => not_mayMove_of_quiescent hq (by decide) (State.svcEnabled_iff.mp hen)
  unfold State.svcEnabled at hsvc
  split at hsvc
  · simp only [Bool.or_eq_false_iff, Bool.not_eq_false', bne_eq_false_iff_eq] at hsvc
    obtain ⟨hany, hready⟩ := hsvc
    obtain ⟨x, hx⟩ := exists_waits (Events.any_iff.mp hany)
    have hmem := ht.mem_readyEvents_iff.mpr hx
    simp [hready] at hmem
  · simpa [← Bool.not_eq_true, Pending.any_iff] using hsvc

/-- No event waits: with the USB interrupt disabled a POLL would be owed (R449). -/
theorem events_of_quiescent (ht : TransportOk s) (hf : FlowOk s) : s.usb.events = ⟨false, false, false⟩ := by
  obtain ⟨htaken, hpending⟩ := flags_of_quiescent hq ht
  obtain ⟨-, -, -, hirq, -⟩ := hf
  have hen : s.irqen.usb = true := by
    refine Bool.of_not_eq_false fun hoff => ?_
    simpa [Usb.owes, htaken, hpending] using hirq hoff
  by_contra hne
  exact not_mayMove_of_quiescent hq (m := .isrUsb) (by decide) ⟨hne, hen⟩

theorem drained_of_quiescent (he : EngineOk s) (ht : TransportOk s) (hf : FlowOk s) : Drained s := by
  obtain ⟨htaken, hpending⟩ := flags_of_quiescent hq ht
  exact ⟨idle_of_quiescent hq he, epIn_of_quiescent hq, htaken, hpending, events_of_quiescent hq ht hf⟩

/-- No byte is left to send: one put while nothing is being sent would have its kick to come (R331, R332). -/
theorem outs_of_quiescent (hd : Drained s) (hf : FlowOk s) : s.outs.count = 0 := by
  obtain ⟨hsend, hbytes, -⟩ := hf
  have hidle : s.usb.sending = false := by
    refine Bool.of_not_eq_true fun hs => ?_
    simpa [hd.epIn, hd.events] using hsend hs
  by_contra hne
  obtain hkick | ⟨hrep, hatB⟩ | hin | hdone := hbytes (Nat.pos_of_ne_zero hne) hidle
  · simp [Usb.owes, hd.taken, hd.pending] at hkick
  · exact not_mayMove_of_quiescent hq (m := .shell) (by decide) (by simp [MayMove, hd.phase, hrep, hatB])
  · exact hin hd.epIn
  · simp [hd.events] at hdone

/-- The Shell reads, and nothing is left to read. -/
theorem shell_of_quiescent (hd : Drained s) (hcap : 1 ≤ s.cfg.capOut) (houts : s.outs.count = 0) :
    s.sh.pos = .READING ∧ s.sh.recvd = none ∧ s.ins.count = 0 := by
  have hshell : ¬ MayMove s .shell := not_mayMove_of_quiescent hq (by decide)
  cases hpos : s.sh.pos with
  | READING =>
    have hread : s.sh.recvd = none ∧ s.ins.count = 0 := by simpa [MayMove, hd.phase, hpos] using hshell
    exact ⟨rfl, hread⟩
  | DISPATCH => simp [MayMove, hd.phase, hpos] at hshell
  | REPLYING =>
    have hfull : s.cfg.capOut ≤ s.outs.count := by
      simp only [MayMove, hd.phase, hpos, not_or, not_lt] at hshell
      exact hshell.2
    omega

/-- The input is consumed: the endpoint would take the next packet. -/
theorem hostTx_of_quiescent (hout : s.usb.epOut = .Valid) (hf : FlowOk s) : s.host.tx = [] := by
  obtain ⟨-, -, -, -, -, -, htx⟩ := hf
  cases hp : s.host.tx with
  | nil => rfl
  | cons p ps =>
    have hlen : p.length ≤ s.cfg.mps := htx p (by simp [hp])
    exact absurd ⟨hout, p, ps, hp, hlen⟩ (not_mayMove_of_quiescent hq (m := .hostOut) (by decide))

/-- A quiescent state that meets the invariants is at rest: no hold can last. -/
theorem atRest_of_quiescent (he : EngineOk s) (ht : TransportOk s) (hf : FlowOk s) : AtRest s := by
  have hd := drained_of_quiescent hq he ht hf
  have houts := outs_of_quiescent hq hd hf
  obtain ⟨-, -, hcap, -⟩ := id ht
  obtain ⟨hpos, hrecvd, hins⟩ := shell_of_quiescent hq hd hcap houts
  have hout := epOut_of_drained hd ht hf hrecvd hins
  exact ⟨hd.phase, hpos, hrecvd, hins, houts, hd.pending, hd.events, hd.epIn, hostTx_of_quiescent hq hout hf⟩

end

/-- Settles O50: no step is refused, so a run from a clean entry goes on; and every wait has a step that ends it. -/
theorem noStepIsRefused : Obligations.NoStepIsRefused :=
  ⟨fun _ he hn hclient => step_answered he hn hclient,
    fun s c h => ⟨s.after c, rfl, (CleanEntry.unstopped h).execution c⟩,
    fun _ he ht hf hq => atRest_of_quiescent hq he ht hf⟩

end Sys2Proof.Machine

/-!
PROOFS. The interrupt handlers, one step each (O37), and two of them in either order (O38): each source's handler is a
function of the state alone, these functions commute, and none takes another source's pending away.
-/

namespace Sys2Proof.Machine

/-! ## The handler of a source (R446-R449) -/

/-- The agent that handles a source. -/
def Source.handler : Source → Move
  | .EV => .isrI2cEv
  | .ER => .isrI2cEr
  | .DTX => .isrDmaTx
  | .DRX => .isrDmaRx
  | .USB => .isrUsb

/-- The body of a source's handler; `step_handler` ties it to the step. -/
def handlerStep : Source → State → State
  | .EV => isrI2cEvStep
  | .ER => isrI2cErStep
  | .DTX => isrDmaTxStep
  | .DRX => isrDmaRxStep
  | .USB => isrUsbStep

theorem exists_source_of_mem_handlerMoves {m : Move} (h : m ∈ handlerMoves) : ∃ src : Source, src.handler = m := by
  simp only [handlerMoves, List.mem_cons, List.not_mem_nil, or_false] at h
  obtain rfl | rfl | rfl | rfl | rfl := h
  exacts [⟨.EV, rfl⟩, ⟨.ER, rfl⟩, ⟨.DTX, rfl⟩, ⟨.DRX, rfl⟩, ⟨.USB, rfl⟩]

/-- A handler may run exactly where its source is pending (R445). -/
theorem State.enabled_handler (s : State) (src : Source) : s.enabled src.handler = s.pendingIrq src := by
  cases src <;> rfl

theorem State.pendingIrq_iff {s : State} {src : Source} :
    s.pendingIrq src = true ↔ s.condition src = true ∧ s.irqen.get src = true := Bool.and_eq_true_iff

/-- Where its source is pending, a handler's turn runs its body. -/
theorem step_handler {s : State} {src : Source} {d : Byte} {rest : List Choice} (h : Turn s src.handler d rest)
    (hp : s.pendingIrq src = true) : step s = .next (handlerStep src (s.chosen src.handler d rest)) := by
  have hm : MayMove s src.handler := State.enabled_iff.mp ((s.enabled_handler src).trans hp)
  cases src <;> exact step_of_mayMove h rfl hm

/-- Settles O37: where each source is pending, its handler's body. -/
theorem handlerEffects : Obligations.HandlerEffects := by
  intro s d rest
  refine ⟨fun h hc hi => ?_, fun h hc hi => ?_, fun h hc hi => ?_, fun h hc hi => ?_, fun h hc hi => ?_⟩
  · exact step_handler (src := .EV) h (State.pendingIrq_iff.mpr ⟨hc, hi⟩)
  · exact step_handler (src := .ER) h (State.pendingIrq_iff.mpr ⟨hc, hi⟩)
  · exact step_handler (src := .DTX) h (State.pendingIrq_iff.mpr ⟨Dma.signals_iff.mpr hc, hi⟩)
  · exact step_handler (src := .DRX) h (State.pendingIrq_iff.mpr ⟨Dma.signals_iff.mpr hc, hi⟩)
  · have hany : s.usb.events.any = true := by simpa [Events.any, or_assoc] using hc
    refine (step_handler (src := .USB) h (State.pendingIrq_iff.mpr ⟨hany, hi⟩)).trans ?_
    simp [Source.handler, handlerStep, isrUsbStep, State.leaveHandler, State.enterHandler, State.post, State.setIrqen, Irqen.set,
      Pending.union]

/-! ## Two handlers (R452, R454) -/

/-- Handlers that run one after the other do the same in either order. -/
theorem handlerStep_comm (a b : Source) (s : State) :
    handlerStep a (handlerStep b s) = handlerStep b (handlerStep a s) := by
  cases a <;> cases b <;> rfl

/-- A handler does not read the choice. -/
theorem handlerStep_chosen (src : Source) (s : State) (m : Move) (d : Byte) (rest : List Choice) :
    handlerStep src (s.chosen m d rest) = (handlerStep src s).chosen m d rest := by
  cases src <;> rfl

@[simp] theorem handlerStep_cfg (src : Source) (s : State) : (handlerStep src s).cfg = s.cfg := by
  cases src <;> rfl

/-- The enable of one source is no other's. -/
theorem Irqen.get_set_of_ne {a b : Source} (h : b ≠ a) (e : Irqen) (v : Bool) : (e.set a v).get b = e.get b := by
  revert h
  cases a <;> cases b <;> simp [Irqen.set, Irqen.get]

/-- A handler leaves the other sources pending as they were: it clears its own flag or its own enable only (R452). -/
theorem pendingIrq_handlerStep_of_ne {a b : Source} (h : b ≠ a) (s : State) :
    (handlerStep a s).pendingIrq b = s.pendingIrq b := by
  cases a with
  | ER =>
    cases b with
    | ER => exact absurd rfl h
    | _ => rfl
  | EV | DTX | DRX | USB => exact congrArg (s.condition b && ·) (Irqen.get_set_of_ne h s.irqen false)

/-- The handlers of EV, DTX and DRX give (R446, R448). -/
theorem handlerStep_sem_of_gives {src : Source} (hER : src ≠ .ER) (hUSB : src ≠ .USB) (s : State) :
    (handlerStep src s).sem = true := by
  cases src with
  | EV | DTX | DRX => rfl
  | ER => exact absurd rfl hER
  | USB => exact absurd rfl hUSB

/-- No handler takes the signal (R454). -/
theorem handlerStep_keeps_sem {s : State} (src : Source) (h : s.sem = true) : (handlerStep src s).sem = true := by
  cases src with
  | EV | DTX | DRX => rfl
  | ER | USB => exact h

section
variable {s : State} {a b : Source} (hcfg : configRefusal s.cfg = none) (ha : s.pendingIrq a = true)
include hcfg ha

/-- A pending handler that is chosen first runs first. -/
theorem step_handler_first (d : Byte) (rest : List Choice) :
    step { s with sched := ⟨a.handler, d⟩ :: rest } = .next ((handlerStep a s).chosen a.handler d rest) := by
  rw [← handlerStep_chosen]
  exact step_handler ⟨rfl, hcfg⟩ ha

/-- Two pending handlers run one after the other. -/
theorem steps_two_handlers (hb : s.pendingIrq b = true) (hne : b ≠ a) (d e : Byte) :
    steps 2 { s with sched := [⟨a.handler, d⟩, ⟨b.handler, e⟩] }
      = .next ((handlerStep b (handlerStep a s)).chosen b.handler e []) := by
  have hcfg' : configRefusal (handlerStep a s).cfg = none := by rwa [handlerStep_cfg]
  have hb' : (handlerStep a s).pendingIrq b = true := (pendingIrq_handlerStep_of_ne hne s).trans hb
  exact steps_next (step_handler_first hcfg ha d _) (steps_next (step_handler_first hcfg' hb' e []) rfl)

end

/-- Settles O38: the handlers' bodies commute, and each leaves the other pending. -/
theorem handlersCommute : Obligations.HandlersCommute := by
  intro m₁ m₂ d₁ d₂ s hm₁ hm₂ hne hcfg hen₁ hen₂
  obtain ⟨a, rfl⟩ := exists_source_of_mem_handlerMoves hm₁
  obtain ⟨b, rfl⟩ := exists_source_of_mem_handlerMoves hm₂
  have hab : a ≠ b := fun h => hne (congrArg Source.handler h)
  rw [State.enabled_handler] at hen₁ hen₂
  refine ⟨⟨_, step_handler_first hcfg hen₁ d₁ [], ?_⟩, _, _, steps_two_handlers hcfg hen₁ hen₂ hab.symm d₁ d₂,
    steps_two_handlers hcfg hen₂ hen₁ hab d₂ d₁, ?_, fun ⟨hER, hUSB⟩ => ?_⟩
  · rw [State.enabled_handler]
    exact (pendingIrq_handlerStep_of_ne hab.symm s).trans hen₂
  · rw [handlerStep_comm]
    rfl
  · have hgives : (handlerStep a s).sem = true :=
      handlerStep_sem_of_gives (fun h => hER (congrArg Source.handler h)) (fun h => hUSB (congrArg Source.handler h)) s
    exact handlerStep_keeps_sem b hgives

end Sys2Proof.Machine

/-!
PROOFS. Shared state is written by its owners only (O54): R473's table read by the agent instead of by the field. `OwnWrites`
says what a step of each agent may write; every step of the list is one of these, and the rows follow.
-/

namespace Sys2Proof.Machine

/-! ## What each agent may write (R473) -/

/-- The control fields of the peripheral are as they were. -/
structure SameControl (c c' : I2cp) : Prop where
  sadd : c'.sadd = c.sadd
  rdWrn : c'.rdWrn = c.rdWrn
  nbytes : c'.nbytes = c.nbytes
  pe : c'.pe = c.pe

/-- What a step of each agent may write. Of the Shell's it says what they leave alone, and that they enable the engine's four
sources together or none. -/
inductive OwnWrites (s : State) : Move → State → Prop where
  | hold (m : Move) : OwnWrites s m s
  | shell {s' : State} : s'.usb = { s.usb with pending := s'.usb.pending } → s'.host = s.host → s'.trace = s.trace →
      (s'.irqen = s.irqen ∨ s'.irqen = s.rearmSources.irqen) → OwnWrites s .shell s'
  | timer (eng : Eng) (phase : Phase) : OwnWrites s .timer { s with eng := eng, phase := phase }
  | client (request : Option Request) (call : Option Call) (eng : Eng) (phase : Phase) :
      OwnWrites s .client { s with client := request, call := call, eng := eng, phase := phase }
  | isrI2cEv : OwnWrites s .isrI2cEv { s with irqen := { s.irqen with ev := false }, sem := true }
  | isrDmaTx : OwnWrites s .isrDmaTx { s with irqen := { s.irqen with dtx := false }, sem := true }
  | isrDmaRx : OwnWrites s .isrDmaRx { s with irqen := { s.irqen with drx := false }, sem := true }
  | isrI2cEr (berr : Bool) : OwnWrites s .isrI2cEr { s with i2c := { s.i2c with berr := berr } }
  | isrUsb (pending : Pending) : OwnWrites s .isrUsb { s with
      irqen := { s.irqen with usb := false }, usb := { s.usb with pending := pending } }
  | peripheral {m : Move} (i2c : I2cp) (trace : List BusEvent) : m ∈ peripheralMoves → SameControl s.i2c i2c →
      OwnWrites s m { s with i2c := i2c, trace := trace }
  | dmaTx (i2c : I2cp) (tx : Dma) : SameControl s.i2c i2c → OwnWrites s .dmaTx { s with i2c := i2c, tx := tx }
  | dmaRx (mem : Memory) (i2c : I2cp) (rx : Dma) : SameControl s.i2c i2c →
      OwnWrites s .dmaRx { s with mem := mem, i2c := i2c, rx := rx }
  | usbSvc (ins outs : ByteStream) (usb : Usb) (irqen : Irqen) : irqen = s.irqen ∨ irqen = { s.irqen with usb := true } →
      OwnWrites s .usbSvc { s with ins := ins, outs := outs, usb := usb, irqen := irqen }
  | hostOut (tx : List (List Byte)) (epOut : EpOut) (events : Events) : OwnWrites s .hostOut { s with
      host := { s.host with tx := tx }, usb := { s.usb with epOut := epOut, events := events } }
  | hostIn (rx : List (List Byte)) (epIn : EpIn) (events : Events) : OwnWrites s .hostIn { s with
      host := { s.host with rx := rx }, usb := { s.usb with epIn := epIn, events := events } }
  | hostCtrl (events : Events) : OwnWrites s .hostCtrl { s with usb := { s.usb with events := events } }

section
variable {s s' : State} {m : Move}

/-- REARM enables the engine's four sources; the Shell's other engine steps touch no enable (R220, R473). -/
theorem EngineStep.irqen_of_shell (h : EngineStep s .shell s') :
    s'.irqen = s.irqen ∨ s'.irqen = s.rearmSources.irqen := by
  cases h with
  | rearmAlone | rearmChunk | rearmXfer | rearmSilent | rearmReply => exact .inr rfl
  | arm t => exact .inl (by simp [armStep])
  | endma t => exact .inl (by simp [endmaStep])
  | dmaoff t => exact .inl (by simp [dmaoffStep])
  | _ => exact .inl rfl

theorem EngineStep.ownWrites (h : EngineStep s m s') : OwnWrites s m s' := by
  by_cases hm : m = .shell
  · subst hm
    exact .shell (by rw [h.frame]) (by rw [h.frame]) (by rw [h.frame]) h.irqen_of_shell
  · cases h with
    | clientCall => exact .client ..
    | waitTimeout => exact .timer ..
    | isrI2cEv => exact .isrI2cEv
    | isrDmaTx => exact .isrDmaTx
    | isrDmaRx => exact .isrDmaRx
    | _ => exact absurd rfl hm

theorem BusStep.ownWrites (h : BusStep s m s') : OwnWrites s m s' := by
  cases h with
  | isrI2cEr => exact .isrI2cEr _
  | pStart => exact .peripheral _ _ (by decide) ⟨rfl, rfl, rfl, rfl⟩
  | pAddr a d n => unfold pAddrStep; split <;> exact .peripheral _ _ (by decide) ⟨rfl, rfl, rfl, rfl⟩
  | pWbyte =>
    unfold pWbyteStep
    split
    · dsimp only; split <;> exact .peripheral _ _ (by decide) ⟨rfl, rfl, rfl, rfl⟩
    · exact .hold _
  | pRbyte =>
    unfold pRbyteStep
    split
    · exact .peripheral _ _ (by decide) ⟨rfl, rfl, rfl, rfl⟩
    · exact .hold _
  | pStop => unfold pStopStep; split <;> exact .peripheral _ _ (by decide) ⟨rfl, rfl, rfl, rfl⟩
  | pDisable | pNoise | pStall => exact .peripheral _ _ (by decide) ⟨rfl, rfl, rfl, rfl⟩
  | dmaTx => unfold dmaTxStep; split <;> exact .dmaTx _ _ ⟨rfl, rfl, rfl, rfl⟩
  | dmaRx => unfold dmaRxStep; split <;> exact .dmaRx _ _ _ ⟨rfl, rfl, rfl, rfl⟩

theorem TransportStep.ownWrites (h : TransportStep s m s') : OwnWrites s m s' := by
  cases h with
  | recvTake | sendPut => exact .shell rfl rfl rfl (.inl rfl)
  | recvPost c => rw [recvPostStep_eq]; exact .shell rfl rfl rfl (.inl rfl)
  | sendPost => rw [sendPostStep_eq]; exact .shell rfl rfl rfl (.inl rfl)
  | pollEvent x => rw [handleEvent_eq]; exact .usbSvc _ _ _ _ (.inl rfl)
  | pollEnd => exact .usbSvc _ _ _ _ (.inr rfl)
  | recvResume => unfold recvResumeStep; dsimp only; split <;> exact .usbSvc _ _ _ _ (.inl rfl)
  | sendResume => rw [sendResumeStep_eq]; exact .usbSvc _ _ _ _ (.inl rfl)
  | takeAll => exact .usbSvc _ _ _ _ (.inl rfl)
  | isrUsb => exact .isrUsb _
  | hostOut p ps _ htx => simp only [hostOutStep, htx]; exact .hostOut _ _ _
  | hostIn p hp => simp only [hostInStep, hp]; exact .hostIn _ _ _
  | hostCtrl => exact .hostCtrl _

/-- Every step writes what its agent may write. -/
theorem StepBy.ownWrites (h : StepBy s m s') : OwnWrites s m s' := by
  cases h with
  | hold => exact .hold m
  | engine h => exact h.ownWrites
  | bus h => exact h.ownWrites
  | transport h => exact h.ownWrites

end

/-! ## The rows of R473 -/

/-- Settles O54: the rows, agent by agent. -/
theorem onlyOwnersWrite : Obligations.OnlyOwnersWrite := by
  intro s s' m d rest hsched h
  obtain ⟨sched, now, tick, hnow, hstep⟩ := step_stepBy_with h
  obtain rfl := hnow _ _ hsched
  cases hstep.ownWrites with
  | hold => simp +contextual
  | shell husb hhost htrace hirq =>
    rw [husb, hhost, htrace]
    obtain hirq | hirq := hirq <;> rw [hirq] <;> simp +contextual [peripheralMoves]
  | peripheral i2c trace hm hsame =>
    obtain ⟨hsadd, hrdWrn, hnbytes, hpe⟩ := hsame
    simp +contextual [hm, hsadd, hrdWrn, hnbytes, hpe]
  | dmaTx i2c tx hsame | dmaRx mem i2c rx hsame =>
    obtain ⟨hsadd, hrdWrn, hnbytes, hpe⟩ := hsame
    simp +contextual [hsadd, hrdWrn, hnbytes, hpe, peripheralMoves]
  | usbSvc ins outs usb irqen hirq =>
    obtain rfl | rfl := hirq <;> simp +contextual [peripheralMoves]
  | _ => simp +contextual [peripheralMoves]

end Sys2Proof.Machine

/-!
PROOFS. Reset and the clean entry (O45, O46): R501's values, and one lemma for each invariant that a clean entry meets. The
engine's is `CleanEntry.engineOk`, above.
-/

namespace Sys2Proof.Machine

/-! ## The reset state (R501) -/

/-- Settles O45: the values as the definition of the reset state writes them. -/
theorem resetValues : Obligations.ResetValues := by
  unfold Obligations.ResetValues
  decide

/-- The reset state is a clean entry with no input (R504). -/
theorem cleanEntry_reset : CleanEntry State.reset :=
  ⟨by decide, rfl, rfl, rfl, rfl, rfl, by decide, rfl, by decide, by decide, ⟨List.length_replicate, rfl, rfl, rfl⟩,
   ⟨List.length_replicate, rfl, rfl, rfl⟩, rfl, rfl, List.length_replicate, rfl, rfl, rfl, rfl, nofun, rfl, rfl, rfl⟩

/-! ## The invariants in a clean entry (R504) -/

/-- A stream at its start is in order, whatever its bytes (R64). -/
theorem ByteStream.fresh.streamOk {cap : Nat} {q : ByteStream} (h : q.fresh cap) (hcap : 1 ≤ cap) : StreamOk cap q := by
  obtain ⟨hbuf, hwr, hrd, hcount⟩ := h
  exact ⟨hbuf, by omega, by omega, by simp [hwr, hrd, hcount]⟩

section
variable {s : State} (h : CleanEntry s)
include h

/-- Both streams are empty, so there is room for the packet that `receiving` promises (R311). -/
theorem CleanEntry.transportOk : TransportOk s := by
  obtain ⟨⟨hmps, hin, hout, -⟩, -, -, -, -, -, -, -, -, -, hins, houts, husb, -⟩ := h
  have hroom : s.cfg.mps ≤ s.insRoom := by
    obtain ⟨-, -, -, hcount⟩ := hins
    rwa [State.insRoom, hcount, Nat.sub_zero]
  exact ⟨hmps, hin, hout, ByteStream.fresh.streamOk hins (hmps.trans hin), ByteStream.fresh.streamOk houts hout,
    fun _ => hroom, by simp [husb], by rw [husb]; rfl, by rw [husb]; rfl⟩

/-- Nothing is owed: nothing is sent, put, called, disabled or held off; and the input's packets fit. -/
theorem CleanEntry.flowOk : FlowOk s := by
  obtain ⟨-, -, -, hcall, -, hirq, -, -, -, -, -, ⟨-, -, -, hcount⟩, husb, -, -, -, -, -, -, htx, -⟩ := h
  exact ⟨by simp [husb], by simp [hcount], by simp [hcall], by simp [hirq], by simp [husb], by rw [husb]; rfl, htx⟩

theorem CleanEntry.engineIdle : EngineIdle s := by
  obtain ⟨-, hphase, -, -, hsem, -, ⟨-, -, -, -, hnackf, hstopf, hberr, -⟩, -⟩ := h
  exact ⟨hphase, hsem, hnackf, hstopf, hberr⟩

/-- The line is empty, in a buffer of its capacity (R71). -/
theorem CleanEntry.lineOk : LineOk s := by
  obtain ⟨-, -, -, -, -, -, -, -, -, -, -, -, -, hlen, hbytes, -⟩ := h
  exact ⟨hbytes, hlen.trans_le (Nat.zero_le _)⟩

theorem CleanEntry.memWf : s.mem.wf = true := by
  obtain ⟨-, -, -, -, -, -, -, -, -, -, -, -, -, -, -, -, -, -, -, -, -, hmem, -⟩ := h
  exact hmem

end

/-- Settles O46: the reset state has R501's values, and each invariant follows from those of a clean entry. -/
theorem resetMeetsInvariants : Obligations.ResetMeetsInvariants :=
  ⟨cleanEntry_reset, fun _ h => ⟨CleanEntry.memWf h, CleanEntry.transportOk h, CleanEntry.flowOk h, CleanEntry.engineOk h,
    CleanEntry.engineIdle h, CleanEntry.lineOk h⟩⟩

end Sys2Proof.Machine
